-- ==== Sys2Proof/Word.lean ====
section
/-! DEFINITION. The word types of HBSA's ports: command words, bytes, tree handles, tree words and
register words, each with the width spec/00_scope.md R5 gives this hardware. -/

namespace Sys2Proof

/-- A command word, `CMD[15:0]` (30_encoding.md R80). -/
abbrev Word := BitVec 16

/-- A byte of the input and output ports (20_memory.md R60). -/
abbrev Byte := BitVec 8

/-- A handle: the address of a node in the tree space (00_scope.md R12, `NODE_W` = 10). -/
abbrev Handle := BitVec 10

/-- A node word of the tree space (20_memory.md R62). -/
abbrev NodeWord := BitVec 32

/-- A word read on the register port (10_state.md R36). -/
abbrev RegWord := BitVec 32

/-- A sequence of bits; the head is index 0, the bit pushed first (10_state.md R22). -/
abbrev Bits := List Bool

end Sys2Proof
end

