-- ==== Sys2Proof/Syntax.lean ====
section
/-! DEFINITION. The 15 commands of spec/opcode_table.json, one constructor per row
(30_encoding.md R84), with their operands (R81, R83). -/

namespace Sys2Proof

/-- The sequence selector `s` (30_encoding.md R81): 0 selects SEQ0, 1 selects SEQ1. -/
inductive Sel where
  | seq0
  | seq1
deriving DecidableEq, Repr

/-- The selector's bit `CMD[10]`. -/
def Sel.bit : Sel → Bool
  | .seq0 => false
  | .seq1 => true

/-- The register a bit selects. -/
def Sel.ofBit : Bool → Sel
  | false => .seq0
  | true => .seq1

/-- The other register, `1 − s` (40_bitsequence.md R107). -/
def Sel.other : Sel → Sel
  | .seq0 => .seq1
  | .seq1 => .seq0

/-- A command of HBSA. -/
inductive Instr where
  /-- NOP (44_system.md R210). -/
  | nop
  /-- SRST (44_system.md R211). -/
  | srst
  /-- SETCTRL (44_system.md R212); `ctrl3 = CMD[2:0]`. -/
  | setctrl (ctrl3 : BitVec 3)
  /-- BSQ_CLR (40_bitsequence.md R101). -/
  | bsqClr (s : Sel)
  /-- BSQ_PUSH (40_bitsequence.md R102); `b = CMD[0]`. -/
  | bsqPush (s : Sel) (b : Bool)
  /-- BSQ_POP (40_bitsequence.md R103). -/
  | bsqPop (s : Sel)
  /-- BSQ_GET (40_bitsequence.md R106); `idx = CMD[8:0]`, an unsigned index. -/
  | bsqGet (s : Sel) (idx : Nat)
  /-- BSQ_COPY (40_bitsequence.md R107); `s` is the source. -/
  | bsqCopy (s : Sel)
  /-- BSQ_EMIT (40_bitsequence.md R108). -/
  | bsqEmit (s : Sel)
  /-- WR_BIT (41_writer.md R131); `b = CMD[0]`. -/
  | wrBit (b : Bool)
  /-- WR_BYTE (41_writer.md R132); `imm8 = CMD[7:0]`. -/
  | wrByte (imm8 : Byte)
  /-- WR_FLUSH (41_writer.md R134). -/
  | wrFlush
  /-- RD_BIT (42_reader.md R152). -/
  | rdBit
  /-- RD_BYTE (42_reader.md R153). -/
  | rdByte
  /-- DEC_SYM (43_decoder.md R171). -/
  | decSym
deriving DecidableEq, Repr

end Sys2Proof
end

