-- ==== Sys2Proof/WellFormed.lean ====
section
/-! DEFINITION. Which instructions can be encoded: every operand fits its field
(30_encoding.md R81, R83, R87). Every operand but BSQ_GET's index fits by its type. -/

namespace Sys2Proof

/-- Every operand fits its field. The index of BSQ_GET is "an unsigned 9-bit index from 0 to 511"
(30_encoding.md R83); an assembler refuses "an `idx` above 511" (R87). -/
def Instr.wellFormed : Instr → Bool
  | .bsqGet _ idx => decide (idx < 512)
  | .nop => true
  | .srst => true
  | .setctrl _ => true
  | .bsqClr _ => true
  | .bsqPush _ _ => true
  | .bsqPop _ => true
  | .bsqCopy _ => true
  | .bsqEmit _ => true
  | .wrBit _ => true
  | .wrByte _ => true
  | .wrFlush => true
  | .rdBit => true
  | .rdByte => true
  | .decSym => true

end Sys2Proof
end

