-- ==== Sys2Proof/Decode.lean ====
section
/-! DEFINITION. The command decoder, total on all 65536 words, and the encoder
(spec/30_encoding.md). A word is "taken whole from the command port" (R80) and HBSA has no byte
order (20_memory.md R65), so the decoder reads one 16-bit word. -/

namespace Sys2Proof

/-- Why a word is illegal (30_encoding.md R85's two cases). -/
inductive DecodeError where
  /-- The word's OPC is not one of the 15 of R84 (R86). -/
  | reservedOpcode
  /-- Its OPC is one of them, but a reserved bit of its format is 1. -/
  | reservedBit
deriving DecidableEq, Repr

/-- OPC, `CMD[15:11]` (R81). -/
def opcOf (w : Word) : BitVec 5 := w.extractLsb' 11 5

/-- `s = CMD[10]` (R83). -/
def selOf (w : Word) : Sel := Sel.ofBit (w.getLsbD 10)

/-- `b = CMD[0]` (R83). -/
def bitOf (w : Word) : Bool := w.getLsbD 0

/-- `imm8 = CMD[7:0]` (R83). -/
def imm8Of (w : Word) : Byte := w.extractLsb' 0 8

/-- `idx = CMD[8:0]` (R83). -/
def idxOf (w : Word) : Nat := (w.extractLsb' 0 9).toNat

/-- `ctrl3 = CMD[2:0]` (R83). -/
def ctrl3Of (w : Word) : BitVec 3 := w.extractLsb' 0 3

/-- One row of R84: a word selects it iff `CMD & mask = pattern`. -/
structure OpcodeRow where
  mask : Word
  pattern : Word
  build : Word → Instr

/-- The table of 30_encoding.md R84. -/
def opcodeTable : List OpcodeRow := [
  ⟨0xFFFF#16, 0x0000#16, fun _ => .nop⟩,
  ⟨0xFFFF#16, 0x0800#16, fun _ => .srst⟩,
  ⟨0xFFF8#16, 0x1000#16, fun w => .setctrl (ctrl3Of w)⟩,
  ⟨0xFBFF#16, 0x2000#16, fun w => .bsqClr (selOf w)⟩,
  ⟨0xFBFE#16, 0x2800#16, fun w => .bsqPush (selOf w) (bitOf w)⟩,
  ⟨0xFBFF#16, 0x3000#16, fun w => .bsqPop (selOf w)⟩,
  ⟨0xFA00#16, 0x3800#16, fun w => .bsqGet (selOf w) (idxOf w)⟩,
  ⟨0xFBFF#16, 0x4000#16, fun w => .bsqCopy (selOf w)⟩,
  ⟨0xFBFF#16, 0x4800#16, fun w => .bsqEmit (selOf w)⟩,
  ⟨0xFFFE#16, 0x6000#16, fun w => .wrBit (bitOf w)⟩,
  ⟨0xFF00#16, 0x6800#16, fun w => .wrByte (imm8Of w)⟩,
  ⟨0xFFFF#16, 0x7000#16, fun _ => .wrFlush⟩,
  ⟨0xFFFF#16, 0x8000#16, fun _ => .rdBit⟩,
  ⟨0xFFFF#16, 0x8800#16, fun _ => .rdByte⟩,
  ⟨0xFFFF#16, 0xA000#16, fun _ => .decSym⟩]

/-- A word selects a row iff `(CMD & mask) = match` (R84). -/
def rowMatches (w : Word) (r : OpcodeRow) : Bool := w &&& r.mask == r.pattern

/-- OPC is one of the 15 of R84. -/
def opcodeListed (w : Word) : Bool := opcodeTable.any fun r => opcOf w == opcOf r.pattern

/-- CMD's decoder (R85): the row the word matches, or the reason it is illegal. -/
def decode (w : Word) : Except DecodeError Instr :=
  match opcodeTable.find? (rowMatches w) with
  | some r => .ok (r.build w)
  | none => .error (if opcodeListed w then .reservedBit else .reservedOpcode)

/-- The field `s` in place, `CMD[10]`. -/
def selField (s : Sel) : Word := (BitVec.ofBool s.bit).setWidth 16 <<< 10

/-- The field `b` in place, `CMD[0]`. -/
def bitField (b : Bool) : Word := (BitVec.ofBool b).setWidth 16

/-- The encoder: "match | field bits" (30_encoding.md R82, R89). -/
def encode : Instr → Word
  | .nop => 0x0000#16
  | .srst => 0x0800#16
  | .setctrl c => 0x1000#16 ||| c.setWidth 16
  | .bsqClr s => 0x2000#16 ||| selField s
  | .bsqPush s b => 0x2800#16 ||| selField s ||| bitField b
  | .bsqPop s => 0x3000#16 ||| selField s
  | .bsqGet s idx => 0x3800#16 ||| selField s ||| (BitVec.ofNat 9 idx).setWidth 16
  | .bsqCopy s => 0x4000#16 ||| selField s
  | .bsqEmit s => 0x4800#16 ||| selField s
  | .wrBit b => 0x6000#16 ||| bitField b
  | .wrByte v => 0x6800#16 ||| v.setWidth 16
  | .wrFlush => 0x7000#16
  | .rdBit => 0x8000#16
  | .rdByte => 0x8800#16
  | .decSym => 0xA000#16

/-- The instruction the decoder reads from an instruction whose bits are `w`, numbered as
spec/opcode_table.json numbers them (log 20). Every row has `nbits` = 16, one whole word; the bits
above `nbits` are 0, and a longer number is no command word. -/
def decodeTableWord (nbits w : Nat) : Option Instr :=
  let bits := w % 2 ^ nbits
  if bits < 65536 then (decode (BitVec.ofNat 16 bits)).toOption else none

end Sys2Proof
end

