-- ==== Sys2Proof/Config.lean ====
section
/-! DEFINITION. What this implementation fixes (spec/00_scope.md R5) and the values the spec leaves
free. -/

namespace Sys2Proof

/-- NSEQ, the number of bit-sequence registers (00_scope.md R5). -/
abbrev Config.nseq : Nat := 2

/-- SEQ_CAP, the capacity of a sequence in bits (00_scope.md R5, R7). -/
abbrev Config.seqCap : Nat := 256

/-- NODE_W, the width of a tree node handle (00_scope.md R5). -/
abbrev Config.nodeW : Nat := 10

/-- WALK_MAX, the most walk bits of one codeword (00_scope.md R5). -/
abbrev Config.walkMax : Nat := 256

/-- CMD_W, the width of a command word (00_scope.md R5). -/
abbrev Config.cmdW : Nat := 16

/-- REG_W, the width of a register read (00_scope.md R5). -/
abbrev Config.regW : Nat := 32

/-- CNT_W, the width of an event counter (00_scope.md R5). -/
abbrev Config.cntW : Nat := 32

/-- LIT_W, the width of the escape literal (00_scope.md R5). -/
abbrev Config.litW : Nat := 8

/-- The constant of the identity register ID (10_state.md R41). -/
abbrev Config.idWord : RegWord := 0x48554646#32

/-- FREE VALUE (log 2): with no turn listed, CMD (for SRST) and DEC can both have an enabled step,
and 20_memory.md R70 lets either go next. `true` lets CMD go. Applied to the count of free choices
used so far, so that each choice is a fresh one. -/
opaque Config.freeTurn : Nat → Bool

/-- FREE VALUE (log 5): the word a handle of the tree space holds while INS has not written it. It
"holds no value the spec fixes" (20_memory.md R62), and 93_implementation_defined.md V1 treats it as
`any value`. One word for each handle: only INS writes the tree space (R60). -/
opaque Config.freeNode : Handle → NodeWord

end Sys2Proof
end

