-- ==== Sys2Proof/Machine/State.lean ====
section
/-! DEFINITION. The state of HBSA and of what stands beside it (spec/10_state.md R45), as plain
data, and the state right after power-on reset (70_reset_and_hazards.md R260, R261). -/

namespace Sys2Proof.Machine

/-- WST, the writer's driver state (10_state.md R31). Value 3 never occurs. -/
inductive Wst where
  | streaming
  | flushing
  | done
deriving DecidableEq, Repr

/-- DST, the decoder state (10_state.md R29). Values 6 and 7 never occur. -/
inductive Dst where
  | idle
  | walk
  | lit
  | wait
  | done
  | err
deriving DecidableEq, Repr

/-- ERR_CODE (60_exceptions.md R230). Codes 9 to 15 are never written. -/
inductive ErrCode where
  | none
  | illegal
  | seqOvf
  | seqUnf
  | seqIdx
  | wrDone
  | trunc
  | tree
  | proto
deriving DecidableEq, Repr

/-- ERR_SRC (60_exceptions.md R230). -/
inductive ErrSrc where
  | cmd
  | dec
  | ins
deriving DecidableEq, Repr

/-- RESULT, 9 bits: EOS in bit 8 and DATA in bits 7 to 0 (10_state.md R32). -/
structure Result where
  eos : Bool
  data : Byte
deriving DecidableEq, Repr

/-- The tree space T as INS has written it (20_memory.md R62): pairs of a handle and its node word,
handles strictly rising and below 1024. A handle that is not listed is one INS never wrote; its word
is a free value (log 5, log 19). -/
abbrev Memory := List (Nat × NodeWord)

/-- The canonical form: handles strictly rising, each below 1024. A handle is listed iff INS has
written it, so equal histories of the tree space are equal lists (log 19). -/
def Memory.wf (m : Memory) : Bool :=
  decide (m.Pairwise fun a b => a.1 < b.1) && m.all fun e => decide (e.1 < 1024)

/-- HOST's moves (70_reset_and_hazards.md R276). -/
inductive HostMove where
  /-- One 16-bit word onto the command port. -/
  | issue (w : Word)
  /-- A register read at a 4-bit address (10_state.md R36). -/
  | readReg (a : BitVec 4)
  /-- `host_push(v)` (20_memory.md R63). -/
  | push (v : Byte)
  /-- `host_end()` (20_memory.md R63). -/
  | endInput
  /-- HOST or the transport takes the first `n` bytes away from OUT (log 11). -/
  | take (n : Nat)
deriving DecidableEq, Repr

/-- INS's moves (70_reset_and_hazards.md R276, log 25). -/
inductive InsMove where
  /-- A tree write: the word at a handle of T. -/
  | write (h : Handle) (w : NodeWord)
  /-- A write of TROOT. -/
  | setRoot (h : Handle)
  /-- `ins_done()` (43_decoder.md R180). -/
  | done
deriving DecidableEq, Repr

/-- One turn of the order in which agents step (20_memory.md R70, log 1). -/
inductive Turn where
  /-- CMD's step, if it has one. -/
  | cmd
  /-- DEC's step, if it has one. -/
  | dec
  /-- A move of HOST. -/
  | host (m : HostMove)
  /-- A move of INS. -/
  | ins (m : InsMove)
  /-- Power-on reset (70_reset_and_hazards.md R260). -/
  | powerOn
deriving DecidableEq, Repr

/-- The state. The first group is HBSA's own record (10_state.md R45), the second the external state
R45 puts beside it, the third the model's own fields (log 1, log 3). The queues and CMD_INDEX have no
bound (log 14). -/
structure State where
  /-- SEQ0 and SEQ1 (10_state.md R22). -/
  seq0 : Bits
  seq1 : Bits
  /-- WBUF, WCNT and WST (10_state.md R24, R31). -/
  wbuf : Byte
  wcnt : Nat
  wst : Wst
  /-- RBUF and RCNT (10_state.md R25). -/
  rbuf : Byte
  rcnt : Nat
  /-- INQ and IN_END (10_state.md R26). -/
  inq : List Byte
  inEnd : Bool
  /-- DST, NODE, DEPTH, CW_BITS, CW_ZERO, LIT, LIT_CNT, SYM and SYM_NEW (10_state.md R28). -/
  dst : Dst
  node : Handle
  depth : Nat
  cwBits : Nat
  cwZero : Bool
  lit : Byte
  litCnt : Nat
  sym : Byte
  symNew : Bool
  /-- RESULT (10_state.md R32). -/
  result : Result
  /-- ERR, ERR_CODE, ERR_SRC and ERR_INFO (10_state.md R30). -/
  err : Bool
  errCode : ErrCode
  errSrc : ErrSrc
  errInfo : BitVec 16
  /-- CTRL: IE_ERR in bit 0, IE_SYM in bit 1, IE_EOS in bit 2 (10_state.md R33). -/
  ctrl : BitVec 3
  /-- OUT_COUNT, IN_COUNT and SYM_COUNT (10_state.md R34). -/
  outCount : BitVec 32
  inCount : BitVec 32
  symCount : BitVec 32
  /-- OUT, the output byte stream (10_state.md R27). -/
  out : List Byte
  /-- T and TROOT, which belong to INS (10_state.md R35). -/
  tree : Memory
  troot : Handle
  /-- The words waiting on the command port, the head first (10_state.md R45). -/
  cmdq : List Word
  /-- CMD_INDEX, the words CMD has taken since power-on reset (10_state.md R21). -/
  cmdIndex : Nat
  /-- The turns to come (log 1). -/
  sched : List Turn
  /-- How many free choices have been used (log 3). -/
  freeUsed : Nat
deriving DecidableEq, Repr

/-- Why the machine stops: for no reason. HBSA's errors are next states (60_exceptions.md R232,
70_reset_and_hazards.md R275) and a tree word INS never wrote is a free value (log 5), so the type has
no constructor and no step can answer a fault. SAFE: nothing is stopped. -/
inductive Fault where
deriving DecidableEq, Repr

/-- Why a step has no meaning. -/
inductive Refusal where
  /-- An instruction that has no meaning yet, by its mnemonic. SAFE: nothing can be proved of it. No
  arm of exec raises it: every command of the table has its meaning. -/
  | notModelled (mnemonic : String)
deriving DecidableEq, Repr

/-- The state right after power-on reset (70_reset_and_hazards.md R260, R261). T and TROOT "hold
whatever INS supplies": T with nothing written (log 5), TROOT = 0 by DESIGN CHOICE (log 4). -/
def State.reset : State where
  seq0 := []
  seq1 := []
  wbuf := 0
  wcnt := 0
  wst := .streaming
  rbuf := 0
  rcnt := 0
  inq := []
  inEnd := false
  dst := .idle
  node := 0
  depth := 0
  cwBits := 0
  cwZero := true
  lit := 0
  litCnt := 0
  sym := 0
  symNew := false
  result := ⟨false, 0⟩
  err := false
  errCode := .none
  errSrc := .cmd
  errInfo := 0
  ctrl := 0
  outCount := 0
  inCount := 0
  symCount := 0
  out := []
  tree := []
  troot := 0
  cmdq := []
  cmdIndex := 0
  sched := []
  freeUsed := 0

end Sys2Proof.Machine
end

