-- ==== Sys2Proof/Machine/Operands.lean ====
section
/-! DEFINITION. Operand forms: the sequence a selector names, the bits of a byte in port order, and
the fields of a tree node word (20_memory.md R61, R62; 30_encoding.md R83). -/

namespace Sys2Proof.Machine

/-- `SEQ[s]` (00_scope.md R10). -/
def State.seq (t : State) : Sel → Bits
  | .seq0 => t.seq0
  | .seq1 => t.seq1

/-- `SEQ[s] <- v`. The other register is not touched (10_state.md R23). -/
def State.setSeq (t : State) (s : Sel) (v : Bits) : State :=
  match s with
  | .seq0 => { t with seq0 := v }
  | .seq1 => { t with seq1 := v }

/-- `zext_8(b)` (00_scope.md R10). -/
def bitByte (b : Bool) : Byte := (BitVec.ofBool b).setWidth 8

/-- `((v << 1) | b)[7:0]`: a bit comes in at bit 0 (41_writer.md R130, 42_reader.md R153,
43_decoder.md R177). -/
def shiftIn (v : Byte) (b : Bool) : Byte := v <<< 1 ||| bitByte b

/-- The bits of a byte, most significant first (20_memory.md R61; 41_writer.md R132). -/
def byteBits (v : Byte) : Bits :=
  [v.getLsbD 7, v.getLsbD 6, v.getLsbD 5, v.getLsbD 4, v.getLsbD 3, v.getLsbD 2, v.getLsbD 1, v.getLsbD 0]

/-- Bit LEAF of a node word (20_memory.md R62). -/
def nodeLeaf (w : NodeWord) : Bool := w.getLsbD 0

/-- Bit NYT of a node word (20_memory.md R62). -/
def nodeNyt (w : NodeWord) : Bool := w.getLsbD 1

/-- SYMBOL, bits 9:2 of a node word (20_memory.md R62). -/
def nodeSymbol (w : NodeWord) : Byte := w.extractLsb' 2 8

/-- LEFT, bits 19:10 of a node word (20_memory.md R62). -/
def nodeLeft (w : NodeWord) : Handle := w.extractLsb' 10 10

/-- RIGHT, bits 29:20 of a node word (20_memory.md R62). -/
def nodeRight (w : NodeWord) : Handle := w.extractLsb' 20 10

/-- The class of a node word, with the fields that class uses (20_memory.md R62). -/
inductive NodeClass where
  | nytLeaf
  | symbolLeaf (symbol : Byte)
  | internal (left right : Handle)
  | malformed
deriving DecidableEq, Repr

/-- DEC classifies a word by {LEAF, NYT} (20_memory.md R62). -/
def classify (w : NodeWord) : NodeClass :=
  match nodeLeaf w, nodeNyt w with
  | true, true => .nytLeaf
  | true, false => .symbolLeaf (nodeSymbol w)
  | false, false => .internal (nodeLeft w) (nodeRight w)
  | false, true => .malformed

/-- `Render(SEQ)`: the string whose character `i` is '0' or '1' as bit `i` is (40_bitsequence.md
R105). -/
def render (v : Bits) : String :=
  String.ofList (v.map fun b => if b then '1' else '0')

end Sys2Proof.Machine
end

