-- ==== Sys2Proof/Machine/Flags.lean ====
section
/-! DEFINITION. Everything HBSA works out from its state on each read: the reader's predicates
(10_state.md R43), the status flags (R38, R39, R44), the interrupt line (60_exceptions.md R238), the
symbol port (43_decoder.md R181), and the numbers that the named values have in registers. -/

namespace Sys2Proof.Machine

/-- `BitAvail` (10_state.md R43). -/
def State.bitAvail (s : State) : Bool := decide (0 < s.rcnt) || !s.inq.isEmpty

/-- `RdEOS` (10_state.md R43). -/
def State.rdEos (s : State) : Bool := decide (s.rcnt = 0) && s.inq.isEmpty && s.inEnd

/-- `RdWait` (10_state.md R43). -/
def State.rdWait (s : State) : Bool := !s.bitAvail && !s.rdEos

/-- `AvailBits` (10_state.md R43). -/
def State.availBits (s : State) : Nat := s.rcnt + 8 * s.inq.length

/-- BUSY: DST is WALK, LIT or WAIT (10_state.md R38). -/
def State.busy (s : State) : Bool :=
  match s.dst with
  | .walk => true
  | .lit => true
  | .wait => true
  | .idle => false
  | .done => false
  | .err => false

/-- CMD is ready to take the word `w` at the head of the command port (10_state.md R44). -/
def State.ready (s : State) (w : Word) : Bool := !s.busy || w == 0x0800#16

/-- `sym_valid`, and the register flag SYM_VALID: DST = WAIT (43_decoder.md R181, 10_state.md R38). -/
def State.symValid (s : State) : Bool := decide (s.dst = .wait)

/-- `sym` of the symbol port (43_decoder.md R181). -/
def State.symPort (s : State) : Byte := s.sym

/-- `sym_new` of the symbol port (43_decoder.md R181). -/
def State.symNewPort (s : State) : Bool := s.symNew

/-- IE_ERR, bit 0 of CTRL (10_state.md R33). -/
def State.ieErr (s : State) : Bool := s.ctrl.getLsbD 0

/-- IE_SYM, bit 1 of CTRL (10_state.md R33). -/
def State.ieSym (s : State) : Bool := s.ctrl.getLsbD 1

/-- IE_EOS, bit 2 of CTRL (10_state.md R33). -/
def State.ieEos (s : State) : Bool := s.ctrl.getLsbD 2

/-- The IRQ output line (60_exceptions.md R238). -/
def State.irq (s : State) : Bool :=
  (s.ieErr && s.err) || (s.ieSym && decide (s.dst = .wait)) || (s.ieEos && decide (s.dst = .done))

/-- WST's number (10_state.md R31). -/
def wstBits : Wst → BitVec 2
  | .streaming => 0#2
  | .flushing => 1#2
  | .done => 2#2

/-- DST's number (10_state.md R29). -/
def dstBits : Dst → BitVec 3
  | .idle => 0#3
  | .walk => 1#3
  | .lit => 2#3
  | .wait => 3#3
  | .done => 4#3
  | .err => 5#3

/-- ERR_CODE's number (60_exceptions.md R230). -/
def errCodeBits : ErrCode → BitVec 4
  | .none => 0#4
  | .illegal => 1#4
  | .seqOvf => 2#4
  | .seqUnf => 3#4
  | .seqIdx => 4#4
  | .wrDone => 5#4
  | .trunc => 6#4
  | .tree => 7#4
  | .proto => 8#4

/-- ERR_SRC's number (60_exceptions.md R230). -/
def errSrcBits : ErrSrc → BitVec 2
  | .cmd => 0#2
  | .dec => 1#2
  | .ins => 2#2

/-- DDRV, the decoder's driver state (10_state.md R39). -/
def State.ddrv (s : State) : BitVec 2 :=
  if s.dst = .err then 3#2
  else if s.dst = .done then 2#2
  else if s.inEnd && s.inq.isEmpty then 1#2
  else 0#2

end Sys2Proof.Machine
end

