-- ==== Sys2Proof/Machine/Ops.lean ====
section
/-! DEFINITION. The named operations that commands and DEC's steps share: the command port, raising
an error, the packer and unpacker primitives, the tree space and the reset. -/

namespace Sys2Proof.Machine

/-! ## The tree space (20_memory.md R62) -/

/-- The entry at key `k`, if one is listed. -/
def Memory.lookup : Memory → Nat → Option NodeWord
  | [], _ => none
  | (a, w) :: m, k => if a = k then some w else Memory.lookup m k

/-- Put `w` at key `k`, keeping the keys rising. -/
def Memory.insert : Memory → Nat → NodeWord → Memory
  | [], k, w => [(k, w)]
  | (a, v) :: m, k, w =>
    if k < a then (k, w) :: (a, v) :: m
    else if k = a then (k, w) :: m
    else (a, v) :: Memory.insert m k w

/-- INS has written the word at this handle. -/
def Memory.written (m : Memory) (h : Handle) : Bool := (m.lookup h.toNat).isSome

/-- `MemRead(T, h)` (00_scope.md R10): the word INS wrote, or the free word of a handle INS never
wrote (log 5). -/
def Memory.read (m : Memory) (h : Handle) : NodeWord := (m.lookup h.toNat).getD (Config.freeNode h)

/-- INS's write of one whole word (20_memory.md R62, R76). -/
def Memory.write (m : Memory) (h : Handle) (w : NodeWord) : Memory := m.insert h.toNat w

/-! ## Errors (60_exceptions.md R232) -/

/-- `raise Error(code, src, info)`: the first error is kept. This is the whole of what stands for
trap entry in HBSA (60_exceptions.md R239). -/
def State.raise (s : State) (code : ErrCode) (src : ErrSrc) (info : BitVec 16) : State :=
  if s.err then s
  else { s with err := true, errCode := code, errSrc := src, errInfo := info, dst := .err }

/-! ## The command port (10_state.md R21, R44; 60_exceptions.md R235) -/

/-- CMD takes the word at the head of the command port: CMD_INDEX advances by one (10_state.md R21). -/
def State.takeWord (s : State) : State :=
  { s with cmdq := s.cmdq.tail, cmdIndex := s.cmdIndex + 1 }

/-- CMD's step for a word other than SRST. While DEC is busy the word waits (10_state.md R44). With
ERR = 1 it is taken and discarded (60_exceptions.md R235). While the command is not `enabled` it waits
at the head of the port (42_reader.md R152, R153). Otherwise it is taken and `body` runs (log 7, log 8,
log 23, log 24). -/
def State.issue (s : State) (enabled : Bool) (body : State → State) : State :=
  if s.busy then s
  else if s.err then s.takeWord
  else if enabled then body s.takeWord
  else s

/-- CMD's step for an illegal word `w` (30_encoding.md R85): "An illegal word has no other effect"
(log 16). -/
def State.illegal (s : State) (w : Word) : State :=
  s.issue true fun t => t.raise .illegal .cmd w

/-! ## The packer (41_writer.md R130, R134) -/

/-- `MemWrite(OUT, 1, v)` (20_memory.md R64). -/
def State.emitByte (s : State) (v : Byte) : State :=
  { s with out := s.out ++ [v], outCount := s.outCount + 1 }

/-- `WriteBit(b)` (41_writer.md R130). -/
def State.writeBit (s : State) (b : Bool) : State :=
  if s.wcnt + 1 = 8 then
    { s.emitByte (shiftIn s.wbuf b) with wbuf := 0, wcnt := 0 }
  else
    { s with wbuf := shiftIn s.wbuf b, wcnt := s.wcnt + 1 }

/-- `WriteBit` of each bit in order (40_bitsequence.md R108, 41_writer.md R132). -/
def State.writeBits (s : State) : Bits → State
  | [] => s
  | b :: bs => (s.writeBit b).writeBits bs

/-- The flush of 41_writer.md R134: pad the partial byte with zeros, emit it, end the stream. FLUSHING
stands only inside this step (10_state.md R31). -/
def State.flush (s : State) : State :=
  let t := if 0 < s.wcnt then s.emitByte (s.wbuf <<< (8 - s.wcnt)) else s
  { t with wbuf := 0, wcnt := 0, wst := .done }

/-! ## The unpacker (42_reader.md R150) -/

/-- `RBUF <- InTake()`, `RCNT <- 8` (42_reader.md R150, 20_memory.md R63). It is used only when INQ is
not empty; on an empty queue it leaves the state as it is (log 17). -/
def State.refill (s : State) : State :=
  match s.inq with
  | [] => s
  | v :: rest => { s with rbuf := v, rcnt := 8, inq := rest, inCount := s.inCount + 1 }

/-- The reader after a refill, if it needs one. -/
def State.fetchBit (s : State) : State := if s.rcnt = 0 then s.refill else s

/-- `ReadBit()` (42_reader.md R150): the bit served and the state after. It is used only when
`BitAvail` holds. -/
def State.readBit (s : State) : Bool × State :=
  let t := s.fetchBit
  (t.rbuf.getLsbD (t.rcnt - 1), { t with rcnt := t.rcnt - 1 })

/-- `repeat n times: v = ((v << 1) | ReadBit())[7:0]` (42_reader.md R153). -/
def State.readInto (s : State) : Nat → Byte → Byte × State
  | 0, v => (v, s)
  | n + 1, v => s.readBit.2.readInto n (shiftIn v s.readBit.1)

/-! ## Results and reset -/

/-- `RESULT <- {EOS = 0, DATA = v}` (10_state.md R40). -/
def State.setData (s : State) (v : Byte) : State := { s with result := ⟨false, v⟩ }

/-- `RESULT <- {EOS = 1, DATA = 0}` (10_state.md R40). -/
def State.setEos (s : State) : State := { s with result := ⟨true, 0⟩ }

/-- `Reset()` (70_reset_and_hazards.md R260): every field of HBSA's own record. OUT, T, TROOT, the
waiting words and CMD_INDEX keep their values. -/
def State.hbsaReset (s : State) : State :=
  { s with
    seq0 := []
    seq1 := []
    wbuf := 0
    wcnt := 0
    wst := .streaming
    rbuf := 0
    rcnt := 0
    inq := []
    inEnd := false
    dst := .idle
    node := 0
    depth := 0
    cwBits := 0
    cwZero := true
    lit := 0
    litCnt := 0
    sym := 0
    symNew := false
    result := ⟨false, 0⟩
    err := false
    errCode := .none
    errSrc := .cmd
    errInfo := 0
    ctrl := 0
    outCount := 0
    inCount := 0
    symCount := 0 }

/-- Power-on reset (70_reset_and_hazards.md R260): `Reset()`, and CMD_INDEX, the command port and OUT
start anew. T and TROOT hold what INS supplies (log 12). -/
def State.powerOn (s : State) : State :=
  { s.hbsaReset with cmdIndex := 0, cmdq := [], out := [] }

end Sys2Proof.Machine
end

