-- ==== Sys2Proof/Machine/Bsq.lean ====
section
/-! DEFINITION. The bit-sequence accumulator's commands (spec/40_bitsequence.md). In each, the
pseudocode's `CMD`, the word being executed, is the encoding of the command. -/

namespace Sys2Proof.Machine

/-- BSQ_CLR (40_bitsequence.md R101). -/
def execBsqClr (sel : Sel) (s : State) : Host.Outcome State Fault Refusal :=
  .next (s.issue true fun t => t.setSeq sel [])

/-- BSQ_PUSH (40_bitsequence.md R102). -/
def execBsqPush (sel : Sel) (b : Bool) (s : State) : Host.Outcome State Fault Refusal :=
  .next (s.issue true fun t =>
    if (t.seq sel).length = Config.seqCap then t.raise .seqOvf .cmd (encode (.bsqPush sel b))
    else t.setSeq sel (t.seq sel ++ [b]))

/-- BSQ_POP (40_bitsequence.md R103). -/
def execBsqPop (sel : Sel) (s : State) : Host.Outcome State Fault Refusal :=
  .next (s.issue true fun t =>
    match (t.seq sel).getLast? with
    | none => t.raise .seqUnf .cmd (encode (.bsqPop sel))
    | some v => (t.setSeq sel (t.seq sel).dropLast).setData (bitByte v))

/-- BSQ_GET (40_bitsequence.md R106, log 22). -/
def execBsqGet (sel : Sel) (idx : Nat) (s : State) : Host.Outcome State Fault Refusal :=
  .next (s.issue true fun t =>
    match (t.seq sel)[idx]? with
    | none => t.raise .seqIdx .cmd (encode (.bsqGet sel idx))
    | some v => t.setData (bitByte v))

/-- BSQ_COPY (40_bitsequence.md R107): `SEQ[1−s] <- SEQ[s]`, by value. -/
def execBsqCopy (sel : Sel) (s : State) : Host.Outcome State Fault Refusal :=
  .next (s.issue true fun t => t.setSeq sel.other (t.seq sel))

/-- BSQ_EMIT (40_bitsequence.md R108): the writer's state is checked first (41_writer.md R133). -/
def execBsqEmit (sel : Sel) (s : State) : Host.Outcome State Fault Refusal :=
  .next (s.issue true fun t =>
    if t.wst = .streaming then t.writeBits (t.seq sel)
    else t.raise .wrDone .cmd (encode (.bsqEmit sel)))

end Sys2Proof.Machine
end

