-- ==== Sys2Proof/Machine/Bsr.lean ====
section
/-! DEFINITION. The bit-stream unpacker's commands (spec/42_reader.md). A command that is not enabled
holds: the word waits at the head of the command port. -/

namespace Sys2Proof.Machine

/-- RD_BIT (42_reader.md R152): "Enabled: only when BitAvail or RdEOS holds". -/
def execRdBit (s : State) : Host.Outcome State Fault Refusal :=
  .next (s.issue (s.bitAvail || s.rdEos) fun t =>
    if t.bitAvail then t.readBit.2.setData (bitByte t.readBit.1)
    else t.setEos)

/-- RD_BYTE (42_reader.md R153): "Enabled: only when AvailBits >= 8 or IN_END = 1". The `RCNT <- 0`
before the error is the one change a raising step makes besides the record (60_exceptions.md R232). -/
def execRdByte (s : State) : Host.Outcome State Fault Refusal :=
  .next (s.issue (decide (8 ≤ s.availBits) || s.inEnd) fun t =>
    if 8 ≤ t.availBits then (t.readInto 8 0#8).2.setData (t.readInto 8 0#8).1
    else if t.availBits = 0 then t.setEos
    else { t with rcnt := 0 }.raise .trunc .cmd (encode .rdByte))

end Sys2Proof.Machine
end

