-- ==== Sys2Proof/Machine/Bsw.lean ====
section
/-! DEFINITION. The bit-stream packer's commands (spec/41_writer.md). Each checks the writer's state
first (R133). -/

namespace Sys2Proof.Machine

/-- WR_BIT (41_writer.md R131). -/
def execWrBit (b : Bool) (s : State) : Host.Outcome State Fault Refusal :=
  .next (s.issue true fun t =>
    if t.wst = .streaming then t.writeBit b
    else t.raise .wrDone .cmd (encode (.wrBit b)))

/-- WR_BYTE (41_writer.md R132): `for i = 7 down to 0: WriteBit(imm8[i])`. -/
def execWrByte (imm8 : Byte) (s : State) : Host.Outcome State Fault Refusal :=
  .next (s.issue true fun t =>
    if t.wst = .streaming then t.writeBits (byteBits imm8)
    else t.raise .wrDone .cmd (encode (.wrByte imm8)))

/-- WR_FLUSH (41_writer.md R134, R135). -/
def execWrFlush (s : State) : Host.Outcome State Fault Refusal :=
  .next (s.issue true fun t =>
    if t.wst = .streaming then t.flush
    else t.raise .wrDone .cmd (encode .wrFlush))

end Sys2Proof.Machine
end

