-- ==== Sys2Proof/Machine/Dec.lean ====
section
/-! DEFINITION. The decoder state machine: the command DEC_SYM, DEC's own steps and INS's
acknowledgement (spec/43_decoder.md). -/

namespace Sys2Proof.Machine

/-- DEC_SYM's start of a codeword in IDLE (43_decoder.md R171). It consumes no bit and reads no node
word. -/
def State.startWalk (s : State) : State :=
  { s with
    node := s.troot
    depth := 0
    cwBits := 0
    cwZero := true
    lit := 0
    litCnt := 0
    dst := .walk }

/-- DEC_SYM (43_decoder.md R171). It runs in IDLE and DONE only: while DST is WALK, LIT or WAIT it
waits (10_state.md R44), and in ERR it is discarded (60_exceptions.md R235). -/
def execDecSym (s : State) : Host.Outcome State Fault Refusal :=
  .next (s.issue true fun t =>
    match t.dst with
    | .idle => t.startWalk
    | .done => t.setEos
    | .walk => t
    | .lit => t
    | .wait => t
    | .err => t)

/-- A symbol goes onto the symbol port: 43_decoder.md R176 (`isNew` false) and R178 (true). -/
def State.deliver (s : State) (symbol : Byte) (isNew : Bool) : State :=
  { s with sym := symbol, symNew := isNew, result := ⟨false, symbol⟩, dst := .wait }

/-- One bit of the codeword is consumed: CW_BITS and CW_ZERO (43_decoder.md R173, R177). -/
def State.countBit (s : State) (b : Bool) : State :=
  { s with cwBits := s.cwBits + 1, cwZero := s.cwZero && !b }

/-- `EndOfInput()` (43_decoder.md R179). -/
def State.endOfInput (s : State) : State :=
  if s.cwBits = 0 ∨ (s.cwBits ≤ 7 ∧ s.cwZero = true) then { s with dst := .done }.setEos
  else s.raise .trunc .dec (BitVec.ofNat 16 s.cwBits)

/-- The error of a malformed tree; ERR_INFO holds the handle (43_decoder.md R175). -/
def State.raiseTree (s : State) : State := s.raise .tree .dec (s.node.setWidth 16)

/-- WALK at an internal node below WALK_MAX (43_decoder.md R173). -/
def State.descend (s : State) (left right : Handle) : State :=
  if s.bitAvail then
    { s.readBit.2.countBit s.readBit.1 with
      node := if s.readBit.1 then right else left
      depth := s.depth + 1 }
  else if s.rdEos then s.endOfInput
  else s

/-- A WALK step on the node word `w`, in the order of 60_exceptions.md R234 (43_decoder.md R173 to
R176). -/
def State.walkOn (s : State) (w : NodeWord) : State :=
  match classify w with
  | .malformed => s.raiseTree
  | .nytLeaf => { s with dst := .lit }
  | .symbolLeaf symbol => if s.depth = 0 then s.raiseTree else s.deliver symbol false
  | .internal left right => if s.depth = Config.walkMax then s.raiseTree else s.descend left right

/-- One literal bit, most significant first, with `Complete()` at the eighth (43_decoder.md R177,
R178). -/
def State.litBit (s : State) (b : Bool) : State :=
  let t := { s.countBit b with lit := shiftIn s.lit b, litCnt := s.litCnt + 1 }
  if t.litCnt = Config.litW then t.deliver t.lit true else t

/-- A LIT step (43_decoder.md R177). -/
def State.litStep (s : State) : State :=
  if s.bitAvail then s.readBit.2.litBit s.readBit.1
  else if s.rdEos then s.endOfInput
  else s

/-- DEC needs no bit, or has one, or has the end of the stream. -/
def State.readerAnswers (s : State) : Bool := s.bitAvail || s.rdEos

/-- DEC's step is enabled (43_decoder.md R182). -/
def State.decEnabled (s : State) : Bool :=
  match s.dst with
  | .walk =>
    match classify (s.tree.read s.node) with
    | .internal _ _ => decide (s.depth = Config.walkMax) || s.readerAnswers
    | .nytLeaf => true
    | .symbolLeaf _ => true
    | .malformed => true
  | .lit => s.readerAnswers
  | .idle => false
  | .wait => false
  | .done => false
  | .err => false

/-- DEC's turn. In WALK it "starts by reading `w = MemRead(T, S.NODE)` in that same step"
(43_decoder.md R172). Where DEC has no step (R182) nothing changes. -/
def decTurn (s : State) : Host.Outcome State Fault Refusal :=
  match s.dst with
  | .walk => .next (s.walkOn (s.tree.read s.node))
  | .lit => .next s.litStep
  | .idle => .next s
  | .wait => .next s
  | .done => .next s
  | .err => .next s

/-- `ins_done()` (43_decoder.md R180). -/
def State.insDone (s : State) : State :=
  if s.dst = .wait then { s with dst := .idle, symCount := s.symCount + 1 }
  else s.raise .proto .ins 0

/-- INS has a write step only while DST is not WALK or LIT (20_memory.md R76). -/
def State.insMayWrite (s : State) : Bool :=
  match s.dst with
  | .walk => false
  | .lit => false
  | .idle => true
  | .wait => true
  | .done => true
  | .err => true

end Sys2Proof.Machine
end

