-- ==== Sys2Proof/Machine/System.lean ====
section
/-! DEFINITION. The system commands NOP, SRST and SETCTRL (spec/44_system.md). -/

namespace Sys2Proof.Machine

/-- NOP (44_system.md R210): only CMD_INDEX advances. -/
def execNop (s : State) : Host.Outcome State Fault Refusal :=
  .next (s.issue true fun t => t)

/-- SRST (44_system.md R211): `Reset()`, "Enabled: always", busy or with ERR = 1. -/
def execSrst (s : State) : Host.Outcome State Fault Refusal :=
  .next s.takeWord.hbsaReset

/-- SETCTRL (44_system.md R212): `CTRL <- ctrl3`. -/
def execSetctrl (ctrl3 : BitVec 3) (s : State) : Host.Outcome State Fault Refusal :=
  .next (s.issue true fun t => { t with ctrl := ctrl3 })

end Sys2Proof.Machine
end

