-- ==== Sys2Proof/Machine/Dispatch.lean ====
section
/-! DEFINITION. CMD's step for each command, from the state in which its word is at the head of the
command port: taking the word, waiting or discarding it is part of each meaning (log 10). -/

namespace Sys2Proof.Machine

def exec (i : Instr) (s : State) : Host.Outcome State Fault Refusal :=
  match i with
  | .nop => Sys2Proof.Machine.execNop s
  | .srst => Sys2Proof.Machine.execSrst s
  | .setctrl ctrl3 => Sys2Proof.Machine.execSetctrl ctrl3 s
  | .bsqClr sel => Sys2Proof.Machine.execBsqClr sel s
  | .bsqPush sel b => Sys2Proof.Machine.execBsqPush sel b s
  | .bsqPop sel => Sys2Proof.Machine.execBsqPop sel s
  | .bsqGet sel idx => Sys2Proof.Machine.execBsqGet sel idx s
  | .bsqCopy sel => Sys2Proof.Machine.execBsqCopy sel s
  | .bsqEmit sel => Sys2Proof.Machine.execBsqEmit sel s
  | .wrBit b => Sys2Proof.Machine.execWrBit b s
  | .wrByte imm8 => Sys2Proof.Machine.execWrByte imm8 s
  | .wrFlush => Sys2Proof.Machine.execWrFlush s
  | .rdBit => Sys2Proof.Machine.execRdBit s
  | .rdByte => Sys2Proof.Machine.execRdByte s
  | .decSym => Sys2Proof.Machine.execDecSym s

end Sys2Proof.Machine
end

