-- ==== Sys2Proof/Machine/Turns.lean ====
section
/-! DEFINITION. One turn of each agent (spec/00_scope.md R6, 20_memory.md R70,
70_reset_and_hazards.md R276): CMD reading its next word, HOST's and INS's moves, power-on reset, and
what HBSA does when no turn is listed. An agent whose step is not enabled lets its turn pass, and
nothing changes (00_scope.md R10 `hold`, log 7). -/

namespace Sys2Proof.Machine

/-- CMD's turn: the word at the head of the command port is decoded (30_encoding.md R85) and its
command runs, or it is illegal. With no word waiting CMD has no step. -/
def cmdTurn (s : State) : Host.Outcome State Fault Refusal :=
  match s.cmdq with
  | [] => .next s
  | w :: _ =>
    match decode w with
    | .ok i => exec i s
    | .error _ => .next (s.illegal w)

/-- HOST puts a word on the command port. Words stay in the order of issue (10_state.md R21), but an SRST
issued while DEC is busy does not wait behind the words that do (70_reset_and_hazards.md R271, vector D13):
it comes to the head of the port, where CMD is ready for it (10_state.md R44; log 26). -/
def State.enqueue (s : State) (w : Word) : State :=
  { s with cmdq := if s.busy && w == 0x0800#16 then w :: s.cmdq else s.cmdq ++ [w] }

/-- A move of HOST. A register read changes no state (20_memory.md R66); the word it returns is
`s.regRead a` (log 13). -/
def State.hostMove (s : State) : HostMove → State
  | .issue w => s.enqueue w
  | .readReg _ => s
  | .push v => if s.inEnd then s else { s with inq := s.inq ++ [v] }
  | .endInput => { s with inEnd := true }
  | .take n => { s with out := s.out.drop n }

/-- A move of INS. Outside its window INS has no write step (20_memory.md R76, log 6). -/
def State.insMove (s : State) : InsMove → State
  | .write h w => if s.insMayWrite then { s with tree := s.tree.write h w } else s
  | .setRoot h => if s.insMayWrite then { s with troot := h } else s
  | .done => s.insDone

/-- The turn `t` of the order. -/
def takeTurn (t : Turn) (s : State) : Host.Outcome State Fault Refusal :=
  match t with
  | .cmd => cmdTurn s
  | .dec => decTurn s
  | .host m => .next (s.hostMove m)
  | .ins m => .next (s.insMove m)
  | .powerOn => .next s.powerOn

/-- The word at the head of the command port is SRST, the one word CMD takes while DEC is busy
(10_state.md R44). An SRST issued before DEC became busy waits its turn (log 26). -/
def State.srstWaits (s : State) : Bool :=
  match s.cmdq with
  | [] => false
  | w :: _ => w == 0x0800#16

/-- With no turn listed, HBSA's own agents go on: the one with an enabled step takes it. Where both
have one (SRST waits while DEC is enabled) either may be next (20_memory.md R70), and the free value
`Config.freeTurn` decides (log 2). Where neither has one, nothing changes. -/
def autoTurn (s : State) : Host.Outcome State Fault Refusal :=
  if s.decEnabled then
    if s.srstWaits then
      if Config.freeTurn s.freeUsed then cmdTurn { s with freeUsed := s.freeUsed + 1 }
      else decTurn { s with freeUsed := s.freeUsed + 1 }
    else decTurn s
  else cmdTurn s

/-- A step of the system: the next listed turn, or HBSA's own. -/
def nextTurn (s : State) : Host.Outcome State Fault Refusal :=
  match s.sched with
  | [] => autoTurn s
  | t :: ts => takeTurn t { s with sched := ts }

/-- HOST puts a word at the head of the command port, and CMD's turn comes next: it is listed unless
CMD would have it anyway (log 9). -/
def State.placeWord (s : State) (w : Word) : State :=
  { s with
    cmdq := w :: s.cmdq
    sched := if s.sched.isEmpty && !s.decEnabled then s.sched else .cmd :: s.sched }

end Sys2Proof.Machine
end

