-- ==== Sys2Proof/Machine/Step.lean ====
section
/-! DEFINITION. One step of the machine, and the state that runs a given command word next. -/

namespace Sys2Proof.Machine

/-- One step: the next agent's atomic step (spec/20_memory.md R70). -/
def step (s : State) : Host.Outcome State Fault Refusal := nextTurn s

/-- `s` with the instruction whose bits are `w` (numbered as spec/opcode_table.json numbers them) at
the head of the command port, where CMD takes its next word (10_state.md R21, log 9). -/
def State.withFetchWord (s : State) (nbits w : Nat) : State :=
  s.placeWord (BitVec.ofNat 16 (w % 2 ^ nbits))

end Sys2Proof.Machine
end

