-- ==== Sys2Proof/Machine/Regs.lean ====
section
/-! DEFINITION. The register read port (spec/10_state.md R36 to R42): sixteen read-only 32-bit words,
worked out from the state. A read has no side effect (20_memory.md R66). -/

namespace Sys2Proof.Machine

/-- A field of a register word at bit `lo`; the bits outside it read 0 (10_state.md R37). -/
def regField {n : Nat} (v : BitVec n) (lo : Nat) : RegWord := v.setWidth 32 <<< lo

/-- A one-bit field. -/
def regFlag (b : Bool) (lo : Nat) : RegWord := regField (BitVec.ofBool b) lo

/-- STATUS, address 0x0 (10_state.md R38). -/
def State.statusWord (s : State) : RegWord :=
  regFlag s.err 0 ||| regFlag s.busy 1 ||| regFlag s.symValid 2 ||| regFlag s.symNew 3
    ||| regFlag s.rdEos 4 ||| regFlag s.inEnd 5 ||| regField (wstBits s.wst) 6
    ||| regField s.ddrv 8 ||| regField (dstBits s.dst) 10 ||| regFlag s.irq 13

/-- ERRCODE, address 0x1. -/
def State.errWord (s : State) : RegWord :=
  regField (errCodeBits s.errCode) 0 ||| regField (errSrcBits s.errSrc) 4 ||| regField s.errInfo 16

/-- RESULT, address 0x2 (10_state.md R40). -/
def State.resultWord (s : State) : RegWord := regField s.result.data 0 ||| regFlag s.result.eos 8

/-- WR_STATE, address 0x5. -/
def State.wrStateWord (s : State) : RegWord :=
  regField s.wbuf 0 ||| regField (BitVec.ofNat 3 s.wcnt) 8 ||| regField (wstBits s.wst) 12

/-- RD_STATE, address 0x6. -/
def State.rdStateWord (s : State) : RegWord :=
  regField s.rbuf 0 ||| regField (BitVec.ofNat 4 s.rcnt) 8 ||| regFlag s.inEnd 12
    ||| regFlag s.inq.isEmpty 13

/-- DEC_STATE, address 0x7. -/
def State.decStateWord (s : State) : RegWord :=
  regField (dstBits s.dst) 0 ||| regFlag s.cwZero 3 ||| regField (BitVec.ofNat 9 s.cwBits) 4
    ||| regField s.node 16

/-- SYM, address 0x8. -/
def State.symWord (s : State) : RegWord := regField s.sym 0 ||| regFlag s.symNew 8

/-- DEC_AUX, address 0xE. -/
def State.decAuxWord (s : State) : RegWord :=
  regField (BitVec.ofNat 9 s.depth) 0 ||| regField (BitVec.ofNat 4 s.litCnt) 12
    ||| regField s.lit 16

/-- The word at address `a` of the register port (10_state.md R37). -/
def State.regRead (s : State) (a : BitVec 4) : RegWord :=
  match a.toNat with
  | 0x0 => s.statusWord
  | 0x1 => s.errWord
  | 0x2 => s.resultWord
  | 0x3 => regField (BitVec.ofNat 9 s.seq0.length) 0
  | 0x4 => regField (BitVec.ofNat 9 s.seq1.length) 0
  | 0x5 => s.wrStateWord
  | 0x6 => s.rdStateWord
  | 0x7 => s.decStateWord
  | 0x8 => s.symWord
  | 0x9 => s.outCount
  | 0xA => s.inCount
  | 0xB => s.symCount
  | 0xC => regField s.ctrl 0
  | 0xD => Config.idWord
  | 0xE => s.decAuxWord
  | _ => 0#32

end Sys2Proof.Machine
end

