-- ==== Sys2Proof/Safety.lean ====
section
/-! DEFINITION. The terms claims use: the invariant of every reachable state, when CMD runs a command,
how a run ends, what stays the same between two states, and the bit streams that the packer and the
unpacker carry. -/

namespace Sys2Proof.Machine

/-! ## The invariant -/

/-- `0 <= len(SEQ[s]) <= SEQ_CAP` (10_state.md R22). -/
abbrev State.SeqsOk (s : State) : Prop :=
  s.seq0.length ≤ Config.seqCap ∧ s.seq1.length ≤ Config.seqCap

/-- WCNT is 0 to 7, `WBUF < 2^WCNT` (10_state.md R24), FLUSHING is never seen (R31), and after the
flush no bit is pending (41_writer.md R134). -/
abbrev State.PackerOk (s : State) : Prop :=
  s.wcnt < 8 ∧ s.wbuf.toNat < 2 ^ s.wcnt ∧ s.wst ≠ .flushing ∧ (s.wst = .done → s.wcnt = 0)

/-- RCNT is 0 to 8 (10_state.md R25). -/
abbrev State.ReaderOk (s : State) : Prop := s.rcnt ≤ 8

/-- The ranges and relations of DEC's fields (10_state.md R28): DEPTH, LIT_CNT, `CW_BITS = DEPTH +
LIT_CNT`, no literal bit in WALK, fewer than eight in LIT, LIT right-aligned, and LIT zero while every
bit of the codeword is. -/
abbrev State.DecoderOk (s : State) : Prop :=
  s.depth ≤ Config.walkMax ∧ s.litCnt ≤ Config.litW ∧ s.cwBits = s.depth + s.litCnt ∧
  (s.dst = .walk → s.litCnt = 0) ∧ (s.dst = .lit → s.litCnt < Config.litW) ∧
  s.lit.toNat < 2 ^ s.litCnt ∧ (s.cwZero = true → s.lit = 0)

/-- ERR and DST = ERR go together (60_exceptions.md R232), and the record is empty while ERR = 0
(10_state.md R30). -/
abbrev State.ErrorOk (s : State) : Prop :=
  (s.err = true ↔ s.dst = .err) ∧ (s.err = true ↔ s.errCode ≠ .none) ∧
  (s.err = false → s.errSrc = .cmd ∧ s.errInfo = 0)

/-- "EOS = 1 means the operation hit end of stream and DATA is 0" (10_state.md R32). -/
abbrev State.ResultOk (s : State) : Prop := s.result.eos = true → s.result.data = 0

/-- What holds of every state the machine reaches. -/
abbrev State.Inv (s : State) : Prop :=
  s.SeqsOk ∧ s.PackerOk ∧ s.ReaderOk ∧ s.DecoderOk ∧ s.ErrorOk ∧ s.ResultOk ∧ s.tree.wf = true

/-! ## When CMD runs a command, and how a run ends -/

/-- CMD takes the word at the head of the port and runs it: DEC is not busy (10_state.md R44) and
ERR = 0 (60_exceptions.md R235). -/
abbrev State.Runs (s : State) : Prop := s.busy = false ∧ s.err = false

/-- An encode run has ended cleanly (70_reset_and_hazards.md R274). -/
abbrev State.encodeEnded (s : State) : Prop := s.wst = .done ∧ s.err = false

/-- A decode run has ended cleanly, in end-of-input mode or in count mode after `n` symbols
(43_decoder.md R186, R188). -/
abbrev State.decodeEnded (s : State) (n : BitVec 32) : Prop :=
  (s.dst = .done ∧ s.err = false) ∨ (s.dst = .idle ∧ s.err = false ∧ s.symCount = n)

/-- A run has ended badly (43_decoder.md R188, 70_reset_and_hazards.md R274). -/
abbrev State.endedBadly (s : State) : Prop := s.err = true

/-- DEC waits on HOST: it needs a bit under RdWait (43_decoder.md R182, R188). -/
abbrev State.decHeld (s : State) : Prop :=
  (s.dst = .walk ∨ s.dst = .lit) ∧ s.decEnabled = false

/-- DEC's next step reads a tree word INS never wrote, the case for which 10_state.md R45 wants a mark:
what that step does depends on a free value (log 5), and a claim about a decode takes as a premise that
INS has supplied the words it reads (20_memory.md R62). -/
abbrev State.readsUnwritten (s : State) : Prop := s.dst = .walk ∧ s.tree.written s.node = false

/-- A bound on the DEC steps left before DST leaves WALK and LIT (43_decoder.md R183). -/
def State.decStepsLeft (s : State) : Nat :=
  match s.dst with
  | .walk => Config.walkMax + 1 - s.depth + Config.litW
  | .lit => Config.litW - s.litCnt
  | .idle => 0
  | .wait => 0
  | .done => 0
  | .err => 0

/-! ## What stays the same -/

/-- Neither sequence changed. -/
abbrev SameSeqs (s t : State) : Prop := t.seq0 = s.seq0 ∧ t.seq1 = s.seq1

/-- The packer did not change. -/
abbrev SamePacker (s t : State) : Prop := t.wbuf = s.wbuf ∧ t.wcnt = s.wcnt ∧ t.wst = s.wst

/-- OUT and its count did not change. -/
abbrev SameOut (s t : State) : Prop := t.out = s.out ∧ t.outCount = s.outCount

/-- The unpacker, the input queue and their count did not change. -/
abbrev SameReader (s t : State) : Prop :=
  t.rbuf = s.rbuf ∧ t.rcnt = s.rcnt ∧ t.inq = s.inq ∧ t.inEnd = s.inEnd ∧ t.inCount = s.inCount

/-- DEC's fields besides DST, with the count of symbols, did not change. -/
abbrev SameWalk (s t : State) : Prop :=
  t.node = s.node ∧ t.depth = s.depth ∧ t.cwBits = s.cwBits ∧ t.cwZero = s.cwZero ∧ t.lit = s.lit ∧
  t.litCnt = s.litCnt ∧ t.sym = s.sym ∧ t.symNew = s.symNew ∧ t.symCount = s.symCount

/-- DEC did not change. -/
abbrev SameDecoder (s t : State) : Prop := t.dst = s.dst ∧ SameWalk s t

/-- The error record did not change. -/
abbrev SameErrors (s t : State) : Prop :=
  t.err = s.err ∧ t.errCode = s.errCode ∧ t.errSrc = s.errSrc ∧ t.errInfo = s.errInfo

/-- INS's tree reads as before at every handle, and TROOT did not change. -/
abbrev SameTree (s t : State) : Prop :=
  (∀ h, t.tree.read h = s.tree.read h) ∧ t.troot = s.troot

/-- The order of the agents' turns did not change. -/
abbrev SameOrder (s t : State) : Prop := t.sched = s.sched ∧ t.freeUsed = s.freeUsed

/-- CMD took the word at the head of the port (10_state.md R21). -/
abbrev TookWord (s t : State) : Prop := t.cmdq = s.cmdq.tail ∧ t.cmdIndex = s.cmdIndex + 1

/-- The command port did not change. -/
abbrev SamePort (s t : State) : Prop := t.cmdq = s.cmdq ∧ t.cmdIndex = s.cmdIndex

/-- Everything but what a command writes by its own rule: the tree, the order and CTRL stay, and CMD
took the word. -/
abbrev CommandFrame (s t : State) : Prop :=
  TookWord s t ∧ SameTree s t ∧ SameOrder s t ∧ t.ctrl = s.ctrl

/-- `t` is `s` with the error recorded and nothing else changed on the HBSA side
(60_exceptions.md R232, R233). -/
abbrev Recorded (s t : State) (code : ErrCode) (src : ErrSrc) (info : BitVec 16) : Prop :=
  (t.err = true ∧ t.errCode = code ∧ t.errSrc = src ∧ t.errInfo = info ∧ t.dst = .err) ∧
  SameSeqs s t ∧ SamePacker s t ∧ SameOut s t ∧ SameWalk s t ∧ t.result = s.result ∧
  t.ctrl = s.ctrl ∧ SameTree s t ∧ SameOrder s t

/-- A command raised the error: the record, the word taken, the unpacker as before. -/
abbrev CommandRaised (s t : State) (code : ErrCode) (info : BitVec 16) : Prop :=
  Recorded s t code .cmd info ∧ SameReader s t ∧ TookWord s t

/-- The command's word is in the row with this mask and match (30_encoding.md R84). -/
abbrev EncodedAs (i : Instr) (mask pattern : Word) : Prop := encode i &&& mask = pattern

/-- The unpacker served the bit `b` (42_reader.md R150): from RBUF while it holds bits, else bit 7 of
INQ's first byte, which is taken then. -/
abbrev ServedBit (s t : State) (b : Bool) : Prop :=
  t.inEnd = s.inEnd ∧
  ((0 < s.rcnt ∧ b = s.rbuf.getLsbD (s.rcnt - 1) ∧ t.rcnt = s.rcnt - 1 ∧ t.rbuf = s.rbuf ∧
      t.inq = s.inq ∧ t.inCount = s.inCount) ∨
    (s.rcnt = 0 ∧ ∃ v q, s.inq = v :: q ∧ b = v.getLsbD 7 ∧ t.rcnt = 7 ∧ t.rbuf = v ∧ t.inq = q ∧
      t.inCount = s.inCount + 1))

/-- DEC's step left everything alone that is not its own: the sequences, the packer, OUT, CTRL, the
command port, INS's tree and the order. -/
abbrev DecFrame (s t : State) : Prop :=
  SameSeqs s t ∧ SamePacker s t ∧ SameOut s t ∧ t.ctrl = s.ctrl ∧ SamePort s t ∧ SameTree s t ∧
  SameOrder s t

/-- DEC's step raised the error: the record, the unpacker and the command port as before. -/
abbrev DecRaised (s t : State) (code : ErrCode) (info : BitVec 16) : Prop :=
  Recorded s t code .dec info ∧ SameReader s t ∧ SamePort s t

/-! ## The numbers registers show -/

/-- DST's numbers (10_state.md R29). -/
abbrev DstNumber (d : Dst) (v : BitVec 3) : Prop :=
  (d = .idle → v = 0) ∧ (d = .walk → v = 1) ∧ (d = .lit → v = 2) ∧ (d = .wait → v = 3) ∧
  (d = .done → v = 4) ∧ (d = .err → v = 5)

/-- WST's numbers (10_state.md R31). -/
abbrev WstNumber (w : Wst) (v : BitVec 2) : Prop :=
  (w = .streaming → v = 0) ∧ (w = .flushing → v = 1) ∧ (w = .done → v = 2)

/-- ERR_CODE's numbers (60_exceptions.md R230). -/
abbrev ErrCodeNumber (c : ErrCode) (v : BitVec 4) : Prop :=
  (c = .none → v = 0) ∧ (c = .illegal → v = 1) ∧ (c = .seqOvf → v = 2) ∧ (c = .seqUnf → v = 3) ∧
  (c = .seqIdx → v = 4) ∧ (c = .wrDone → v = 5) ∧ (c = .trunc → v = 6) ∧ (c = .tree → v = 7) ∧
  (c = .proto → v = 8)

/-- ERR_SRC's numbers (60_exceptions.md R230). -/
abbrev ErrSrcNumber (r : ErrSrc) (v : BitVec 2) : Prop :=
  (r = .cmd → v = 0) ∧ (r = .dec → v = 1) ∧ (r = .ins → v = 2)

/-! ## The bit streams -/

/-- The bits the unpacker still has to serve, in order: the RCNT low bits of RBUF, then INQ's bytes,
each most significant bit first (10_state.md R25, 42_reader.md R151). -/
def State.pendingBits (s : State) : Bits :=
  (List.range s.rcnt).reverse.map (fun i => s.rbuf.getLsbD i) ++ s.inq.flatMap byteBits

/-- The bits in the packer that are not yet in a byte, oldest first (10_state.md R24). -/
def State.heldBits (s : State) : Bits :=
  (List.range s.wcnt).reverse.map (fun i => s.wbuf.getLsbD i)

/-- The whole bit stream the packer has produced: OUT's bytes, then the held bits. -/
def State.writtenBits (s : State) : Bits := s.out.flatMap byteBits ++ s.heldBits

/-- `n` successive `ReadBit()`s: the bits served, in order, and the state after (42_reader.md R151). -/
def State.serve (s : State) : Nat → Bits × State
  | 0 => ([], s)
  | n + 1 => (s.readBit.1 :: (s.readBit.2.serve n).1, (s.readBit.2.serve n).2)

/-! ## The walk -/

/-- The class of the node a path ends at: from handle `h`, 0 goes left and 1 goes right
(43_decoder.md R173). None where the path goes on past a node that is not internal. -/
def pathClass (m : Memory) (h : Handle) : Bits → Option NodeClass
  | [] => some (classify (m.read h))
  | b :: p =>
    match classify (m.read h) with
    | .internal left right => pathClass m (if b then right else left) p
    | .nytLeaf => none
    | .symbolLeaf _ => none
    | .malformed => none

/-- `n` turns of DEC, one after the other. -/
def decTurns : Nat → State → Host.Outcome State Fault Refusal
  | 0, s => .next s
  | n + 1, s =>
    match decTurn s with
    | .next t => decTurns n t
    | .fault r => .fault r
    | .refused r => .refused r

end Sys2Proof.Machine
end

