-- ==== Sys2Proof/Certificates/Slice0/Obligations.lean ====
section
/-! DEFINITION. The statements for the provers, each from the numbered rules of spec/. A statement about
a command says where it completes, what it writes and what it leaves alone; `s.Runs` says that DEC is not
busy and ERR = 0, so that CMD takes the word and runs it (10_state.md R44, 60_exceptions.md R235). -/

open Sys2Proof Sys2Proof.Machine

/-! ## Encoding (30_encoding.md) -/

/-- The words of 30_encoding.md R87, R89 and of 95_test_vectors.md 2.1 decode as they say, one for each
family and the illegal ones R89 names. -/
def Obligations.WorkedWordsDecode : Prop :=
  decode 0x0000#16 = .ok .nop ∧ decode 0x0800#16 = .ok .srst ∧
  decode 0x1005#16 = .ok (.setctrl 5#3) ∧ decode 0x2C01#16 = .ok (.bsqPush .seq1 true) ∧
  decode 0x3C05#16 = .ok (.bsqGet .seq1 5) ∧ decode 0x38FF#16 = .ok (.bsqGet .seq0 255) ∧
  decode 0x6841#16 = .ok (.wrByte 0x41#8) ∧ decode 0x7000#16 = .ok .wrFlush ∧
  decode 0x8800#16 = .ok .rdByte ∧ decode 0xA000#16 = .ok .decSym ∧
  decode 0x3A00#16 = .error .reservedBit ∧ decode 0x0001#16 = .error .reservedBit ∧
  decode 0xF800#16 = .error .reservedOpcode ∧ decode 0x1008#16 = .error .reservedBit

/-- Decoding the word of a well-formed command gives the command back, with every operand. -/
def Obligations.DecodeOfEncodeIsTheCommand : Prop :=
  ∀ i : Instr, i.wellFormed = true → decode (encode i) = .ok i

/-- A word that decodes to a command is that command's encoding, and the command is well formed. -/
def Obligations.EncodeOfDecodeIsTheWord : Prop :=
  ∀ (w : Word) (i : Instr), decode w = .ok i → encode i = w ∧ i.wellFormed = true

/-- 30_encoding.md R84, R85: a word selects a row iff `(CMD & mask) = match`; it selects at most one,
and it decodes to a command iff it selects one. -/
def Obligations.EveryWordIsOneCommandOrIllegal : Prop :=
  ∀ w : Word,
    (∀ r ∈ opcodeTable, ∀ r' ∈ opcodeTable,
      w &&& r.mask = r.pattern → w &&& r'.mask = r'.pattern → r.pattern = r'.pattern) ∧
    ((∃ i, decode w = .ok i) ↔ ∃ r ∈ opcodeTable, w &&& r.mask = r.pattern)

/-- 30_encoding.md R86: a word whose OPC is 0x03, 0x0A, 0x0B, 0x0F, 0x12, 0x13 or 0x15 to 0x1F is
illegal, whatever its other bits. -/
def Obligations.ReservedOpcodesAreIllegal : Prop :=
  ∀ w : Word,
    (opcOf w ∈ [0x03#5, 0x0A#5, 0x0B#5, 0x0F#5, 0x12#5, 0x13#5] ∨ 0x15#5 ≤ opcOf w) →
    decode w = .error .reservedOpcode

/-! ## The step, reset and the invariant -/

/-- What a step runs (20_memory.md R70; which agent is next is data, log 1, and log 2 where no turn is
listed). CMD's turn runs `exec i` when the word at the head of the command port decodes to `i`, and
`State.illegal` when it is illegal; the turns of DEC, INS, HOST and power-on run their own operation; a
listed turn is taken off the list first. With nothing listed DEC steps where it is enabled, unless SRST is
at the head of the port, where either agent may; else CMD does, if a word waits. Every step completes. -/
def Obligations.StepRunsTheDecodedCommand : Prop :=
  ∀ s : State,
    (∀ w ws, s.cmdq = w :: ws →
      (∀ i, decode w = .ok i →
        (s.sched = [] → s.decEnabled = false → step s = exec i s) ∧
        (∀ ts, s.sched = .cmd :: ts → step s = exec i { s with sched := ts })) ∧
      (∀ e, decode w = .error e →
        (s.sched = [] → s.decEnabled = false → step s = .next (s.illegal w)) ∧
        (∀ ts, s.sched = .cmd :: ts → step s = .next ({ s with sched := ts }.illegal w)))) ∧
    (s.cmdq = [] →
      (s.sched = [] → s.decEnabled = false → step s = .next s) ∧
      (∀ ts, s.sched = .cmd :: ts → step s = .next { s with sched := ts })) ∧
    (∀ ts, s.sched = .dec :: ts → step s = decTurn { s with sched := ts }) ∧
    (∀ m ts, s.sched = .ins m :: ts → step s = .next ({ s with sched := ts }.insMove m)) ∧
    (∀ m ts, s.sched = .host m :: ts → step s = .next ({ s with sched := ts }.hostMove m)) ∧
    (∀ ts, s.sched = .powerOn :: ts → step s = .next { s with sched := ts }.powerOn) ∧
    (s.sched = [] → s.decEnabled = true →
      ((∀ ws, s.cmdq ≠ 0x0800#16 :: ws) → step s = decTurn s) ∧
      (∀ ws, s.cmdq = 0x0800#16 :: ws →
        step s = exec .srst { s with freeUsed := s.freeUsed + 1 } ∨
          step s = decTurn { s with freeUsed := s.freeUsed + 1 })) ∧
    ∃ t, step s = .next t

/-- 70_reset_and_hazards.md R261: what every register reads after reset. -/
def Obligations.ResetRegistersRead : Prop :=
  State.reset.regRead 0x0 = 0x00000000#32 ∧ State.reset.regRead 0x7 = 0x00000008#32 ∧
  State.reset.regRead 0x6 = 0x00002000#32 ∧ State.reset.regRead 0xD = 0x48554646#32 ∧
  ∀ a : BitVec 4, a ≠ 0x7 → a ≠ 0x6 → a ≠ 0xD → State.reset.regRead a = 0#32

/-- The invariant holds after reset. -/
def Obligations.InvariantHoldsAtReset : Prop := State.reset.Inv

/-- Every step of every agent keeps the invariant, from every state that meets it. -/
def Obligations.StepKeepsTheInvariant : Prop :=
  ∀ s t : State, s.Inv → step s = .next t → t.Inv

/-- 30_encoding.md R85: an illegal word that CMD runs records E_ILLEGAL with the word, and has no other
effect. -/
def Obligations.IllegalWordRaisesIllegal : Prop :=
  ∀ (s : State) (w : Word) (ws : List Word) (e : DecodeError),
    s.cmdq = w :: ws → decode w = .error e → s.Runs →
    ∃ t, cmdTurn s = .next t ∧ CommandRaised s t .illegal w

/-- 60_exceptions.md R232: raising records the error when ERR = 0, sets DST to ERR and changes nothing
else; when ERR = 1 nothing changes. -/
def Obligations.RaiseKeepsTheFirstError : Prop :=
  ∀ (s : State) (code : ErrCode) (src : ErrSrc) (info : BitVec 16),
    (s.err = true → s.raise code src info = s) ∧
    (s.err = false →
      Recorded s (s.raise code src info) code src info ∧ SameReader s (s.raise code src info) ∧
      SamePort s (s.raise code src info))

/-- 60_exceptions.md R235: with ERR = 1 (so DST = ERR) CMD takes every word but 0x0800 and discards it,
legal or illegal; SRST executes; DEC has no step; `ins_done` changes nothing; HOST may still push. That a read command is discarded with no
input there is the model's reading (log 8). -/
def Obligations.ErrorDiscardsEveryWordButSrst : Prop :=
  ∀ (s : State) (w : Word) (ws : List Word), s.cmdq = w :: ws → s.err = true → s.dst = .err →
    (w ≠ 0x0800#16 → cmdTurn s = .next { s with cmdq := ws, cmdIndex := s.cmdIndex + 1 }) ∧
    (w = 0x0800#16 → ∃ t, cmdTurn s = .next t ∧ t.err = false ∧ t.dst = .idle) ∧
    s.decEnabled = false ∧ decTurn s = .next s ∧ s.insDone = s ∧
    (∀ v, s.inEnd = false → s.hostMove (.push v) = { s with inq := s.inq ++ [v] })

/-- 60_exceptions.md R240: a step that leaves the error state is SRST's or power-on reset, which is a turn
of the model (log 12). -/
def Obligations.OnlyResetLeavesTheErrorState : Prop :=
  ∀ s t : State, s.err = true → step s = .next t → t.err = false →
    (∃ ts, s.sched = .powerOn :: ts) ∨
    ((s.sched = [] ∨ ∃ ts, s.sched = .cmd :: ts) ∧ ∃ ws, s.cmdq = 0x0800#16 :: ws)

/-- 10_state.md R44: while DST is WALK, LIT or WAIT every word but 0x0800 at the head of the port waits;
SRST at the head is taken in every state. 70_reset_and_hazards.md R271 with vector D13: an SRST that HOST
issues while DEC is busy is taken by CMD's next turn, whatever words wait, and they still wait after it. That
one issued before DEC became busy keeps its place behind them, and that an illegal word waits like any
other, are the model's readings (log 26, log 16). -/
def Obligations.BusyDecoderHoldsTheCommandPort : Prop :=
  ∀ (s : State) (w : Word) (ws : List Word), s.cmdq = w :: ws →
    (s.dst = .walk ∨ s.dst = .lit ∨ s.dst = .wait → w ≠ 0x0800#16 → cmdTurn s = .next s) ∧
    (s.dst = .walk ∨ s.dst = .lit ∨ s.dst = .wait →
      ∃ t, cmdTurn (s.hostMove (.issue 0x0800#16)) = .next t ∧ t.dst = .idle ∧ t.cmdq = w :: ws ∧
        t.cmdIndex = s.cmdIndex + 1) ∧
    (w = 0x0800#16 → ∃ t, cmdTurn s = .next t ∧ t.cmdq = ws ∧ t.cmdIndex = s.cmdIndex + 1)

/-- 10_state.md R21: CMD either holds its word, and nothing at all changes, or takes it, and CMD_INDEX
advances by one. It holds only while DEC is busy or a read command waits for input. -/
def Obligations.CmdIndexCountsTheWordsTaken : Prop :=
  ∀ (i : Instr) (s t : State), exec i s = .next t →
    (t = s ∧ (s.busy = true ∨ ((i = .rdBit ∨ i = .rdByte) ∧ s.inEnd = false))) ∨ TookWord s t

/-- 20_memory.md R73, R76, 10_state.md R35: no command and no step of DEC writes the tree, TROOT or a
word of the command port. -/
def Obligations.HbsaWritesNoTreeAndNoCommandWord : Prop :=
  (∀ (i : Instr) (s t : State), exec i s = .next t →
    SameTree s t ∧ (t.cmdq = s.cmdq ∨ t.cmdq = s.cmdq.tail)) ∧
  (∀ s t : State, decTurn s = .next t → SameTree s t ∧ SamePort s t)

/-- 10_state.md R33: a step that changes CTRL is power-on reset, a turn of the model (log 12), or CMD
running SETCTRL or SRST. -/
def Obligations.OnlySetctrlAndResetWriteCtrl : Prop :=
  ∀ s t : State, step s = .next t → t.ctrl ≠ s.ctrl →
    (∃ ts, s.sched = .powerOn :: ts) ∨
    ((s.sched = [] ∨ ∃ ts, s.sched = .cmd :: ts) ∧
      ∃ w ws, s.cmdq = w :: ws ∧ (w = 0x0800#16 ∨ ∃ c, decode w = .ok (.setctrl c)))

/-! ## System commands (44_system.md) -/

/-- 44_system.md R210: NOP takes its word and does nothing, with ERR = 0 and with ERR = 1. -/
def Obligations.NopOnlyTakesItsWord : Prop :=
  ∀ s : State, s.busy = false →
    EncodedAs .nop 0xFFFF 0x0000 ∧
    ∃ t, exec .nop s = .next t ∧ SameSeqs s t ∧ SamePacker s t ∧ SameOut s t ∧ SameReader s t ∧
      SameDecoder s t ∧ SameErrors s t ∧ t.result = s.result ∧ CommandFrame s t

/-- 44_system.md R211, 70_reset_and_hazards.md R260: SRST runs in every state, puts every HBSA field at
its reset value, and keeps OUT, T, TROOT, the waiting words and CMD_INDEX (its own word is taken).
Power-on reset gives the same but for CMD_INDEX, the command port and OUT (log 12: T and TROOT stay). -/
def Obligations.SrstResetsEveryHbsaField : Prop :=
  ∀ s : State,
    EncodedAs .srst 0xFFFF 0x0800 ∧
    ∃ t, exec .srst s = .next t ∧
      (t.seq0 = [] ∧ t.seq1 = [] ∧ t.wbuf = 0 ∧ t.wcnt = 0 ∧ t.wst = .streaming ∧ t.rbuf = 0 ∧
        t.rcnt = 0 ∧ t.inq = [] ∧ t.inEnd = false ∧ t.dst = .idle ∧ t.node = 0 ∧ t.depth = 0 ∧
        t.cwBits = 0 ∧ t.cwZero = true ∧ t.lit = 0 ∧ t.litCnt = 0 ∧ t.sym = 0 ∧ t.symNew = false ∧
        t.result = ⟨false, 0⟩ ∧ t.err = false ∧ t.errCode = .none ∧ t.errSrc = .cmd ∧ t.errInfo = 0 ∧
        t.ctrl = 0 ∧ t.outCount = 0 ∧ t.inCount = 0 ∧ t.symCount = 0) ∧
      t.out = s.out ∧ SameTree s t ∧ SameOrder s t ∧ TookWord s t ∧
      s.powerOn = { t with cmdIndex := 0, cmdq := [], out := [] }

/-- 44_system.md R212: SETCTRL writes CTRL, and the IRQ level follows at once. With ERR = 1 it is
discarded. -/
def Obligations.SetctrlWritesCtrl : Prop :=
  ∀ (c : BitVec 3) (s : State), s.busy = false →
    EncodedAs (.setctrl c) 0xFFF8 0x1000 ∧ ctrl3Of (encode (.setctrl c)) = c ∧
    ∃ t, exec (.setctrl c) s = .next t ∧
      (s.err = false → t.ctrl = c ∧ t.irq = (c.getLsbD 2 && decide (s.dst = .done))) ∧
      (s.err = true → t.ctrl = s.ctrl) ∧
      SameSeqs s t ∧ SamePacker s t ∧ SameOut s t ∧ SameReader s t ∧ SameDecoder s t ∧
      SameErrors s t ∧ t.result = s.result ∧ TookWord s t ∧ SameTree s t ∧ SameOrder s t

/-! ## The accumulator (40_bitsequence.md) -/

/-- 40_bitsequence.md R101: BSQ_CLR empties its sequence and touches nothing else. -/
def Obligations.BsqClrEmptiesItsSequence : Prop :=
  ∀ (sel : Sel) (s : State), s.Runs →
    EncodedAs (.bsqClr sel) 0xFBFF 0x2000 ∧ selOf (encode (.bsqClr sel)) = sel ∧
    ∃ t, exec (.bsqClr sel) s = .next t ∧ t.seq sel = [] ∧ t.seq sel.other = s.seq sel.other ∧
      SamePacker s t ∧ SameOut s t ∧ SameReader s t ∧ SameDecoder s t ∧ SameErrors s t ∧
      t.result = s.result ∧ CommandFrame s t

/-- 40_bitsequence.md R102: BSQ_PUSH appends one bit at the tail, or records E_SEQ_OVF at 256 bits. -/
def Obligations.BsqPushAppendsAtTheTail : Prop :=
  ∀ (sel : Sel) (b : Bool) (s : State), s.Runs →
    (EncodedAs (.bsqPush sel b) 0xFBFE 0x2800 ∧ selOf (encode (.bsqPush sel b)) = sel ∧
      bitOf (encode (.bsqPush sel b)) = b) ∧
    ((s.seq sel).length ≠ 256 →
      ∃ t, exec (.bsqPush sel b) s = .next t ∧ t.seq sel = s.seq sel ++ [b] ∧
        t.seq sel.other = s.seq sel.other ∧ SamePacker s t ∧ SameOut s t ∧ SameReader s t ∧
        SameDecoder s t ∧ SameErrors s t ∧ t.result = s.result ∧ CommandFrame s t) ∧
    ((s.seq sel).length = 256 →
      ∃ t, exec (.bsqPush sel b) s = .next t ∧
        CommandRaised s t .seqOvf (encode (.bsqPush sel b)))

/-- 40_bitsequence.md R103: BSQ_POP removes the tail bit and returns it in RESULT, or records E_SEQ_UNF
on an empty sequence. -/
def Obligations.BsqPopRemovesTheTail : Prop :=
  ∀ (sel : Sel) (s : State), s.Runs →
    (EncodedAs (.bsqPop sel) 0xFBFF 0x3000 ∧ selOf (encode (.bsqPop sel)) = sel) ∧
    (∀ u v, s.seq sel = u ++ [v] →
      ∃ t, exec (.bsqPop sel) s = .next t ∧ t.seq sel = u ∧
        t.result = ⟨false, if v then 1#8 else 0#8⟩ ∧ t.seq sel.other = s.seq sel.other ∧
        SamePacker s t ∧ SameOut s t ∧ SameReader s t ∧ SameDecoder s t ∧ SameErrors s t ∧
        CommandFrame s t) ∧
    (s.seq sel = [] →
      ∃ t, exec (.bsqPop sel) s = .next t ∧ CommandRaised s t .seqUnf (encode (.bsqPop sel)))

/-- 40_bitsequence.md R106: BSQ_GET returns the bit at its index in RESULT and changes no sequence, or
records E_SEQ_IDX at or past the length. -/
def Obligations.BsqGetReadsTheIndexedBit : Prop :=
  ∀ (sel : Sel) (idx : Nat) (s : State), s.Runs →
    (EncodedAs (.bsqGet sel idx) 0xFA00 0x3800 ∧ selOf (encode (.bsqGet sel idx)) = sel ∧
      (idx < 512 → idxOf (encode (.bsqGet sel idx)) = idx)) ∧
    (idx < (s.seq sel).length →
      ∃ t, exec (.bsqGet sel idx) s = .next t ∧
        t.result = ⟨false, if (s.seq sel).getD idx false then 1#8 else 0#8⟩ ∧
        SameSeqs s t ∧ SamePacker s t ∧ SameOut s t ∧ SameReader s t ∧ SameDecoder s t ∧
        SameErrors s t ∧ CommandFrame s t) ∧
    ((s.seq sel).length ≤ idx →
      ∃ t, exec (.bsqGet sel idx) s = .next t ∧
        CommandRaised s t .seqIdx (encode (.bsqGet sel idx)))

/-- 40_bitsequence.md R107: BSQ_COPY writes the other register with the source's bits; the source is
unchanged. -/
def Obligations.BsqCopyWritesTheOtherRegister : Prop :=
  ∀ (sel : Sel) (s : State), s.Runs →
    EncodedAs (.bsqCopy sel) 0xFBFF 0x4000 ∧ selOf (encode (.bsqCopy sel)) = sel ∧
    ∃ t, exec (.bsqCopy sel) s = .next t ∧ t.seq sel.other = s.seq sel ∧ t.seq sel = s.seq sel ∧
      SamePacker s t ∧ SameOut s t ∧ SameReader s t ∧ SameDecoder s t ∧ SameErrors s t ∧
      t.result = s.result ∧ CommandFrame s t

/-- 10_state.md R23: after BSQ_COPY, a push, pop or clear of either register that runs leaves the other
one as the copy made it. -/
def Obligations.CopiedSequencesAreIndependent : Prop :=
  ∀ (src sel : Sel) (b : Bool) (s t u : State), s.Runs → exec (.bsqCopy src) s = .next t →
    (exec (.bsqPush sel b) t = .next u ∨ exec (.bsqPop sel) t = .next u ∨
      exec (.bsqClr sel) t = .next u) →
    u.seq sel.other = s.seq src

/-- 40_bitsequence.md R103, R104 (stack discipline): a pop right after a push returns the pushed bit
and restores the sequence. -/
def Obligations.PopUndoesPush : Prop :=
  ∀ (sel : Sel) (b : Bool) (s : State), s.Runs → (s.seq sel).length < 256 →
    ∃ t u, exec (.bsqPush sel b) s = .next t ∧ exec (.bsqPop sel) t = .next u ∧
      u.seq0 = s.seq0 ∧ u.seq1 = s.seq1 ∧ u.result = ⟨false, if b then 1#8 else 0#8⟩ ∧ u.err = false

/-- 40_bitsequence.md R108: BSQ_EMIT gives the packer every bit of the sequence, index 0 first, in one
step: floor((WCNT + len) / 8) bytes. After the flush it records E_WR_DONE, also for an empty sequence. -/
def Obligations.BsqEmitWritesTheWholeSequence : Prop :=
  ∀ (sel : Sel) (s : State), s.Runs →
    (EncodedAs (.bsqEmit sel) 0xFBFF 0x4800 ∧ selOf (encode (.bsqEmit sel)) = sel) ∧
    (s.wst = .streaming → s.PackerOk →
      ∃ t, exec (.bsqEmit sel) s = .next t ∧ t.writtenBits = s.writtenBits ++ s.seq sel ∧
        (∃ bs, t.out = s.out ++ bs ∧ bs.length = (s.wcnt + (s.seq sel).length) / 8 ∧
          t.outCount = s.outCount + BitVec.ofNat 32 bs.length) ∧
        t.wcnt = (s.wcnt + (s.seq sel).length) % 8 ∧ t.PackerOk ∧ t.wst = .streaming ∧
        SameSeqs s t ∧ SameReader s t ∧ SameDecoder s t ∧ SameErrors s t ∧ t.result = s.result ∧
        CommandFrame s t) ∧
    (s.wst ≠ .streaming →
      ∃ t, exec (.bsqEmit sel) s = .next t ∧ CommandRaised s t .wrDone (encode (.bsqEmit sel)))

/-! ## The packer (41_writer.md) -/

/-- 41_writer.md R130, R131: WR_BIT shifts its bit into WBUF; the eighth bit appends the byte to OUT and
empties the buffer. After the flush it records E_WR_DONE. -/
def Obligations.WrBitPacksOneBit : Prop :=
  ∀ (b : Bool) (s : State), s.Runs →
    (EncodedAs (.wrBit b) 0xFFFE 0x6000 ∧ bitOf (encode (.wrBit b)) = b) ∧
    (s.wst = .streaming →
      ∃ t, exec (.wrBit b) s = .next t ∧
        (s.wcnt = 7 → t.wbuf = 0 ∧ t.wcnt = 0 ∧ t.outCount = s.outCount + 1 ∧
          t.out = s.out ++ [(s.wbuf <<< 1) ||| (if b then 1#8 else 0#8)]) ∧
        (s.wcnt ≠ 7 → t.wbuf = (s.wbuf <<< 1) ||| (if b then 1#8 else 0#8) ∧ t.wcnt = s.wcnt + 1 ∧
          SameOut s t) ∧
        t.wst = .streaming ∧ SameSeqs s t ∧ SameReader s t ∧ SameDecoder s t ∧ SameErrors s t ∧
        t.result = s.result ∧ CommandFrame s t) ∧
    (s.wst ≠ .streaming →
      ∃ t, exec (.wrBit b) s = .next t ∧ CommandRaised s t .wrDone (encode (.wrBit b)))

/-- 41_writer.md R132: WR_BYTE appends exactly one byte, the held bits followed by the literal's high
bits, and holds the literal's low WCNT bits; WCNT is as before. After the flush it records E_WR_DONE. -/
def Obligations.WrBytePacksALiteral : Prop :=
  ∀ (v : Byte) (s : State), s.Runs →
    (EncodedAs (.wrByte v) 0xFF00 0x6800 ∧ imm8Of (encode (.wrByte v)) = v) ∧
    (s.wst = .streaming → s.wcnt < 8 →
      ∃ t, exec (.wrByte v) s = .next t ∧
        t.out = s.out ++ [s.wbuf <<< (8 - s.wcnt) ||| v >>> s.wcnt] ∧
        t.outCount = s.outCount + 1 ∧ t.wcnt = s.wcnt ∧
        (∀ i, t.wbuf.getLsbD i = (decide (i < s.wcnt) && v.getLsbD i)) ∧
        t.wst = .streaming ∧ SameSeqs s t ∧ SameReader s t ∧ SameDecoder s t ∧ SameErrors s t ∧
        t.result = s.result ∧ CommandFrame s t) ∧
    (s.wst ≠ .streaming →
      ∃ t, exec (.wrByte v) s = .next t ∧ CommandRaised s t .wrDone (encode (.wrByte v)))

/-- 41_writer.md R134, R135: WR_FLUSH pads the k held bits with zeros in the low bits and appends that
byte, or nothing when no bit is held, and the writer is DONE. A second flush records E_WR_DONE. -/
def Obligations.WrFlushPadsTheLastByte : Prop :=
  ∀ s : State, s.Runs →
    EncodedAs .wrFlush 0xFFFF 0x7000 ∧
    (s.wst = .streaming → s.wcnt < 8 →
      ∃ t, exec .wrFlush s = .next t ∧
        (s.wcnt = 0 → SameOut s t) ∧
        (0 < s.wcnt → ∃ v, t.out = s.out ++ [v] ∧ t.outCount = s.outCount + 1 ∧
          ∀ i, i < 8 → v.getLsbD (7 - i) = (decide (i < s.wcnt) && s.wbuf.getLsbD (s.wcnt - 1 - i))) ∧
        t.wbuf = 0 ∧ t.wcnt = 0 ∧ t.wst = .done ∧ SameSeqs s t ∧ SameReader s t ∧ SameDecoder s t ∧
        SameErrors s t ∧ t.result = s.result ∧ CommandFrame s t) ∧
    (s.wst ≠ .streaming →
      ∃ t, exec .wrFlush s = .next t ∧ CommandRaised s t .wrDone (encode .wrFlush))

/-- 20_memory.md R64, 10_state.md R27: a command only appends to OUT, and (SRST apart, which resets it)
OUT_COUNT advances by the bytes appended; DEC never writes OUT. -/
def Obligations.OutIsOnlyAppendedTo : Prop :=
  (∀ (i : Instr) (s t : State), exec i s = .next t →
    ∃ bs, t.out = s.out ++ bs ∧
      (i ≠ .srst → t.outCount = s.outCount + BitVec.ofNat 32 bs.length)) ∧
  (∀ s t : State, decTurn s = .next t → SameOut s t)

/-- 41_writer.md R130, R137: each bit given to the packer is appended to the stream it has produced, in
order, none lost. -/
def Obligations.WrittenStreamGrowsByTheBitsGiven : Prop :=
  ∀ (s : State) (v : Bits), s.wcnt < 8 →
    (s.writeBits v).writtenBits = s.writtenBits ++ v ∧
    8 * (s.writeBits v).out.length + (s.writeBits v).wcnt = 8 * s.out.length + s.wcnt + v.length

/-- 41_writer.md R137: n bits given to an empty packer and then WR_FLUSH append exactly ceil(n / 8)
bytes; byte j has bit 8j + i at bit 7 − i, and 0 past the last bit. No bits give no bytes. -/
def Obligations.FlushedStreamIsTheBitsPadded : Prop :=
  ∀ (s : State) (v : Bits), s.Runs → s.wst = .streaming → s.wcnt = 0 → s.wbuf = 0 →
    ∃ t bs, exec .wrFlush (s.writeBits v) = .next t ∧ t.out = s.out ++ bs ∧
      bs.length = (v.length + 7) / 8 ∧
      ∀ j i, j < bs.length → i < 8 → (bs.getD j 0).getLsbD (7 - i) = v.getD (8 * j + i) false

/-- 41_writer.md R138: the packer's state is written only by WR_BIT, WR_BYTE, WR_FLUSH, BSQ_EMIT and
reset: no other command, no step of DEC and no move of HOST or INS touches it. -/
def Obligations.OnlyWritersTouchThePacker : Prop :=
  (∀ (i : Instr) (s t : State),
    (∀ b, i ≠ .wrBit b) → (∀ v, i ≠ .wrByte v) → i ≠ .wrFlush → (∀ sel, i ≠ .bsqEmit sel) →
    i ≠ .srst → exec i s = .next t → SamePacker s t) ∧
  (∀ s t : State, decTurn s = .next t → SamePacker s t) ∧
  (∀ (s : State) (m : HostMove), SamePacker s (s.hostMove m)) ∧
  (∀ (s : State) (m : InsMove), SamePacker s (s.insMove m))

/-- 41_writer.md R138: what a writing command puts on OUT and leaves in the packer does not depend on the
unpacker, the decoder or the tree. -/
def Obligations.WritersIgnoreReaderAndDecoder : Prop :=
  ∀ (i : Instr) (s s' t t' : State),
    ((∃ b, i = .wrBit b) ∨ (∃ v, i = .wrByte v) ∨ i = .wrFlush ∨ ∃ sel, i = .bsqEmit sel) →
    s.Runs → s'.Runs → SameSeqs s s' → SamePacker s s' → SameOut s s' →
    exec i s = .next t → exec i s' = .next t' → SameSeqs t t' ∧ SamePacker t t' ∧ SameOut t t'

/-! ## The unpacker (42_reader.md) -/

/-- 10_state.md R43: exactly one of BitAvail, RdEOS and RdWait holds, and AvailBits counts the bits. -/
def Obligations.ReaderPredicatesAreExclusive : Prop :=
  ∀ s : State,
    (s.bitAvail = true ↔ 0 < s.rcnt ∨ s.inq ≠ []) ∧
    (s.rdEos = true ↔ s.rcnt = 0 ∧ s.inq = [] ∧ s.inEnd = true) ∧
    (s.rdWait = true ↔ s.rcnt = 0 ∧ s.inq = [] ∧ s.inEnd = false) ∧
    s.availBits = s.rcnt + 8 * s.inq.length ∧ s.availBits = s.pendingBits.length ∧
    ((s.bitAvail = true ∧ s.rdEos = false ∧ s.rdWait = false) ∨
      (s.bitAvail = false ∧ s.rdEos = true ∧ s.rdWait = false) ∨
      (s.bitAvail = false ∧ s.rdEos = false ∧ s.rdWait = true))

/-- 42_reader.md R150, R152: RD_BIT returns the next bit; or end of stream, after which a pushed byte is
dropped; or its word waits until HOST pushes a byte or ends the stream. -/
def Obligations.RdBitServesOneBit : Prop :=
  ∀ s : State, s.Runs →
    EncodedAs .rdBit 0xFFFF 0x8000 ∧
    (s.bitAvail = true →
      ∃ t b, exec .rdBit s = .next t ∧ ServedBit s t b ∧
        t.result = ⟨false, if b then 1#8 else 0#8⟩ ∧ SameSeqs s t ∧ SamePacker s t ∧ SameOut s t ∧
        SameDecoder s t ∧ SameErrors s t ∧ CommandFrame s t) ∧
    (s.rdEos = true →
      ∃ t, exec .rdBit s = .next t ∧ t.result = ⟨true, 0⟩ ∧ SameReader s t ∧ SameSeqs s t ∧
        SamePacker s t ∧ SameOut s t ∧ SameDecoder s t ∧ SameErrors s t ∧ CommandFrame s t ∧
        ∀ v, s.hostMove (.push v) = s) ∧
    (s.rdWait = true →
      exec .rdBit s = .next s ∧ (∀ v, (s.hostMove (.push v)).bitAvail = true) ∧
        (s.hostMove .endInput).rdEos = true)

/-- 42_reader.md R153: RD_BYTE returns the next eight bits; or a clean end of stream; or, with 1 to 7
bits left at stream end, consumes them and records E_TRUNC; or its word waits. -/
def Obligations.RdByteServesEightBits : Prop :=
  ∀ s : State, s.Runs → s.rcnt ≤ 8 →
    EncodedAs .rdByte 0xFFFF 0x8800 ∧
    (8 ≤ s.availBits →
      ∃ t, exec .rdByte s = .next t ∧
        (s.rcnt = 8 → t.result = ⟨false, s.rbuf⟩ ∧ t.rcnt = 0 ∧ t.rbuf = s.rbuf ∧ t.inq = s.inq ∧
          t.inCount = s.inCount) ∧
        (∀ v q, s.rcnt < 8 → s.inq = v :: q →
          t.result = ⟨false, s.rbuf <<< (8 - s.rcnt) ||| v >>> s.rcnt⟩ ∧ t.rcnt = s.rcnt ∧
          t.rbuf = v ∧ t.inq = q ∧ t.inCount = s.inCount + 1) ∧
        t.inEnd = s.inEnd ∧ SameSeqs s t ∧ SamePacker s t ∧ SameOut s t ∧ SameDecoder s t ∧
        SameErrors s t ∧ CommandFrame s t) ∧
    (s.availBits = 0 → s.inEnd = true →
      ∃ t, exec .rdByte s = .next t ∧ t.result = ⟨true, 0⟩ ∧ SameReader s t ∧ SameSeqs s t ∧
        SamePacker s t ∧ SameOut s t ∧ SameDecoder s t ∧ SameErrors s t ∧ CommandFrame s t) ∧
    (0 < s.availBits → s.availBits < 8 → s.inEnd = true →
      ∃ t, exec .rdByte s = .next t ∧ Recorded s t .trunc .cmd 0x8800#16 ∧ t.rcnt = 0 ∧
        t.rbuf = s.rbuf ∧ t.inq = [] ∧ t.inEnd = true ∧ t.inCount = s.inCount ∧ TookWord s t) ∧
    (s.availBits < 8 → s.inEnd = false → exec .rdByte s = .next s)

/-- 42_reader.md R151: every command but SRST, and every step of DEC, leaves the input bit stream as it
is or takes bits off its front: none is skipped, repeated or reordered. -/
def Obligations.ReadersTakeFromTheFront : Prop :=
  (∀ (i : Instr) (s t : State), i ≠ .srst → exec i s = .next t →
    ∃ u, s.pendingBits = u ++ t.pendingBits) ∧
  (∀ s t : State, decTurn s = .next t → ∃ u, s.pendingBits = u ++ t.pendingBits ∧ u.length ≤ 1)

/-- 42_reader.md R151: successive `ReadBit()`s return the pending bits in order: what RBUF still holds,
then each byte of INQ from bit 7 down to bit 0. -/
def Obligations.ServedBitsAreThePendingBits : Prop :=
  ∀ (n : Nat) (s : State), n ≤ s.availBits →
    (s.serve n).1 = s.pendingBits.take n ∧ (s.serve n).2.pendingBits = s.pendingBits.drop n

/-- 41_writer.md R137 with 42_reader.md R151: the bytes a flushed stream of bits puts on OUT, given to
an unpacker, are served as the same bits. -/
def Obligations.PackedBitsAreReadBack : Prop :=
  ∀ (s t r : State) (v : Bits) (bs : List Byte),
    s.Runs → s.wst = .streaming → s.wcnt = 0 → s.wbuf = 0 →
    exec .wrFlush (s.writeBits v) = .next t → t.out = s.out ++ bs → r.rcnt = 0 → r.inq = bs →
    (r.serve v.length).1 = v

/-- HOST's moves. 10_state.md R21, 70_reset_and_hazards.md R271: an issued word goes to the tail of the
command port, but SRST while DEC is busy to its head (the model's reading of R271, log 26). 20_memory.md R63:
`host_push` appends its byte while IN_END = 0 and is dropped after; `host_end` sets IN_END, and a second
one changes nothing. 10_state.md R27: HOST takes bytes away from OUT, the first ones in the model (log 11). -/
def Obligations.InputPortMoves : Prop :=
  ∀ (s : State) (v : Byte),
    (∀ w, s.busy = false ∨ w ≠ 0x0800#16 →
      s.hostMove (.issue w) = { s with cmdq := s.cmdq ++ [w] }) ∧
    (s.busy = true → s.hostMove (.issue 0x0800#16) = { s with cmdq := 0x0800#16 :: s.cmdq }) ∧
    (s.inEnd = false → s.hostMove (.push v) = { s with inq := s.inq ++ [v] } ∧
      (s.hostMove (.push v)).pendingBits = s.pendingBits ++ byteBits v) ∧
    (s.inEnd = true → s.hostMove (.push v) = s) ∧
    s.hostMove .endInput = { s with inEnd := true } ∧
    (s.hostMove .endInput).hostMove .endInput = s.hostMove .endInput ∧
    (∀ n, s.hostMove (.take n) = { s with out := s.out.drop n }) ∧
    (∀ taken left, s.out = taken ++ left → (s.hostMove (.take taken.length)).out = left)

/-! ## The decoder (43_decoder.md) -/

/-- 43_decoder.md R171: DEC_SYM in IDLE starts a walk at TROOT and consumes no bit; in DONE it reports
end of stream again and nothing else changes. -/
def Obligations.DecSymStartsACodeword : Prop :=
  ∀ s : State, s.Runs →
    EncodedAs .decSym 0xFFFF 0xA000 ∧
    (s.dst = .idle →
      ∃ t, exec .decSym s = .next t ∧ t.dst = .walk ∧ t.node = s.troot ∧ t.depth = 0 ∧
        t.cwBits = 0 ∧ t.cwZero = true ∧ t.lit = 0 ∧ t.litCnt = 0 ∧ t.sym = s.sym ∧
        t.symNew = s.symNew ∧ t.symCount = s.symCount ∧ t.result = s.result ∧ SameReader s t ∧
        SameSeqs s t ∧ SamePacker s t ∧ SameOut s t ∧ SameErrors s t ∧ CommandFrame s t) ∧
    (s.dst = .done →
      ∃ t, exec .decSym s = .next t ∧ t.result = ⟨true, 0⟩ ∧ SameDecoder s t ∧ SameReader s t ∧
        SameSeqs s t ∧ SamePacker s t ∧ SameOut s t ∧ SameErrors s t ∧ CommandFrame s t)

/-- 43_decoder.md R173: WALK at an internal node consumes one bit and goes left on 0 and right on 1; at
WALK_MAX it records E_TREE; under RdWait nothing changes. -/
def Obligations.WalkFollowsTheBit : Prop :=
  ∀ (s : State) (w : NodeWord), s.dst = .walk → s.err = false → s.tree.read s.node = w →
    nodeLeaf w = false → nodeNyt w = false →
    (s.depth = 256 →
      ∃ t, decTurn s = .next t ∧ DecRaised s t .tree (s.node.setWidth 16)) ∧
    (s.depth ≠ 256 → s.bitAvail = true →
      ∃ t b, decTurn s = .next t ∧ ServedBit s t b ∧ t.dst = .walk ∧
        t.node = (if b then w.extractLsb' 20 10 else w.extractLsb' 10 10) ∧
        t.depth = s.depth + 1 ∧ t.cwBits = s.cwBits + 1 ∧ t.cwZero = (s.cwZero && !b) ∧
        t.lit = s.lit ∧ t.litCnt = s.litCnt ∧ t.sym = s.sym ∧ t.symNew = s.symNew ∧
        t.symCount = s.symCount ∧ t.result = s.result ∧ SameErrors s t ∧ DecFrame s t) ∧
    (s.depth ≠ 256 → s.rdWait = true → decTurn s = .next s)

/-- 43_decoder.md R174: WALK at the NYT leaf enters LIT; no bit is consumed, and no literal bit is held. -/
def Obligations.WalkAtNytEntersLit : Prop :=
  ∀ (s : State) (w : NodeWord), s.dst = .walk → s.tree.read s.node = w →
    nodeLeaf w = true → nodeNyt w = true →
    ∃ t, decTurn s = .next t ∧ t.dst = .lit ∧ SameWalk s t ∧ SameReader s t ∧ SameErrors s t ∧
      t.result = s.result ∧ DecFrame s t ∧ (s.DecoderOk → t.lit = 0 ∧ t.litCnt = 0)

/-- 43_decoder.md R175: a malformed word, a symbol leaf at the root, or an internal node at WALK_MAX
records E_TREE with the handle, whatever the reader holds, and nothing else changes. -/
def Obligations.MalformedTreeRaisesTree : Prop :=
  ∀ (s : State) (w : NodeWord), s.dst = .walk → s.err = false → s.tree.read s.node = w →
    (nodeLeaf w = false ∧ nodeNyt w = true) ∨ (nodeLeaf w = true ∧ nodeNyt w = false ∧ s.depth = 0) ∨
      (nodeLeaf w = false ∧ nodeNyt w = false ∧ s.depth = 256) →
    ∃ t, decTurn s = .next t ∧ DecRaised s t .tree (s.node.setWidth 16)

/-- 43_decoder.md R176: WALK at a symbol leaf at depth 1 or more outputs its symbol as a known one and
waits for INS; no bit is consumed. -/
def Obligations.WalkAtSymbolLeafDelivers : Prop :=
  ∀ (s : State) (w : NodeWord), s.dst = .walk → s.tree.read s.node = w →
    nodeLeaf w = true → nodeNyt w = false → 1 ≤ s.depth →
    ∃ t, decTurn s = .next t ∧ t.dst = .wait ∧ t.sym = w.extractLsb' 2 8 ∧ t.symNew = false ∧
      t.result = ⟨false, w.extractLsb' 2 8⟩ ∧ t.node = s.node ∧ t.depth = s.depth ∧
      t.cwBits = s.cwBits ∧ t.cwZero = s.cwZero ∧ t.lit = s.lit ∧ t.litCnt = s.litCnt ∧
      t.symCount = s.symCount ∧ SameReader s t ∧ SameErrors s t ∧ DecFrame s t

/-- 43_decoder.md R177, R178: a LIT step collects one literal bit; the eighth completes the symbol, which
is new; under RdWait nothing changes. -/
def Obligations.LitCollectsTheLiteral : Prop :=
  ∀ s : State, s.dst = .lit →
    (s.bitAvail = true →
      ∃ t b, decTurn s = .next t ∧ ServedBit s t b ∧
        t.lit = ((s.lit <<< 1) ||| (if b then 1#8 else 0#8)) ∧ t.litCnt = s.litCnt + 1 ∧
        t.cwBits = s.cwBits + 1 ∧ t.cwZero = (s.cwZero && !b) ∧ t.node = s.node ∧
        t.depth = s.depth ∧ t.symCount = s.symCount ∧
        (s.litCnt = 7 → t.dst = .wait ∧ t.sym = t.lit ∧ t.symNew = true ∧ t.result = ⟨false, t.lit⟩) ∧
        (s.litCnt ≠ 7 → t.dst = .lit ∧ t.sym = s.sym ∧ t.symNew = s.symNew ∧ t.result = s.result) ∧
        SameErrors s t ∧ DecFrame s t) ∧
    (s.rdWait = true → decTurn s = .next s)

/-- 43_decoder.md R179: when DEC needs a bit and RdEOS holds, the stream ends cleanly iff the partial
codeword is at most seven bits, all zero; otherwise E_TRUNC with CW_BITS is recorded. -/
def Obligations.EndOfInputTellsPaddingFromTruncation : Prop :=
  ∀ s : State, s.err = false → s.rdEos = true →
    (s.dst = .lit ∨ (s.dst = .walk ∧ s.depth ≠ 256 ∧
      nodeLeaf (s.tree.read s.node) = false ∧ nodeNyt (s.tree.read s.node) = false)) →
    (s.cwBits = 0 ∨ (s.cwBits ≤ 7 ∧ s.cwZero = true) →
      ∃ t, decTurn s = .next t ∧ t.dst = .done ∧ t.result = ⟨true, 0⟩ ∧ SameWalk s t ∧
        SameReader s t ∧ SameErrors s t ∧ DecFrame s t) ∧
    (¬ (s.cwBits = 0 ∨ (s.cwBits ≤ 7 ∧ s.cwZero = true)) →
      ∃ t, decTurn s = .next t ∧ DecRaised s t .trunc (BitVec.ofNat 16 s.cwBits))

/-- 43_decoder.md R180: `ins_done` in WAIT returns DEC to IDLE and counts the symbol; elsewhere it records
E_PROTO, unless an error is recorded already. -/
def Obligations.InsDoneAcknowledgesTheSymbol : Prop :=
  ∀ s : State,
    (s.dst = .wait → s.insDone = { s with dst := .idle, symCount := s.symCount + 1 }) ∧
    (s.dst ≠ .wait → s.err = false →
      Recorded s s.insDone .proto .ins 0 ∧ SameReader s s.insDone ∧ SamePort s s.insDone) ∧
    (s.dst ≠ .wait → s.err = true → s.insDone = s)

/-- 43_decoder.md R182: DEC's step is enabled in exactly the table's cases, and where it is not, nothing
changes. DEC's turn always completes: the word at the handle it reads is the one INS wrote, or a free
value where INS never wrote one (20_memory.md R62, log 5), and DEC goes on with either. -/
def Obligations.DecStepIsEnabledExactlyAsTabled : Prop :=
  ∀ s : State,
    (∀ w, s.dst = .walk → s.tree.read s.node = w →
      (s.decEnabled = true ↔
        nodeLeaf w = true ∨ nodeNyt w = true ∨ s.depth = 256 ∨ s.bitAvail = true ∨ s.rdEos = true)) ∧
    (s.dst = .lit → (s.decEnabled = true ↔ s.bitAvail = true ∨ s.rdEos = true)) ∧
    (s.dst ≠ .walk → s.dst ≠ .lit → s.decEnabled = false) ∧
    (s.decEnabled = false → decTurn s = .next s) ∧
    (∃ t, decTurn s = .next t) ∧
    (s.readsUnwritten →
      s.tree.read s.node = Config.freeNode s.node ∧
        decTurn s = .next (s.walkOn (Config.freeNode s.node)))

/-- 43_decoder.md R183: every enabled DEC step consumes a bit or changes DST (an error changes it to ERR),
and one codeword takes at most WALK_MAX + 1 WALK steps and 8 LIT steps: the count of steps left falls. -/
def Obligations.EveryDecStepMakesProgress : Prop :=
  ∀ s t : State, s.Inv → s.decEnabled = true → decTurn s = .next t →
    (t.availBits + 1 = s.availBits ∨ t.dst ≠ s.dst) ∧ t.decStepsLeft < s.decStepsLeft ∧
    s.decStepsLeft ≤ 257 + 8

/-- 43_decoder.md R173, R176: walking a path of the tree that ends at a symbol leaf, with the path's bits
next in the stream, delivers that symbol as a known one and consumes exactly those bits. -/
def Obligations.KnownCodewordDecodesToItsSymbol : Prop :=
  ∀ (p rest : Bits) (symbol : Byte) (s : State), s.dst = .walk → s.depth + p.length ≤ 256 →
    1 ≤ s.depth + p.length → pathClass s.tree s.node p = some (.symbolLeaf symbol) →
    s.pendingBits = p ++ rest →
    ∃ t, decTurns (p.length + 1) s = .next t ∧ t.dst = .wait ∧ t.sym = symbol ∧ t.symNew = false ∧
      t.result = ⟨false, symbol⟩ ∧ t.depth = s.depth + p.length ∧ t.pendingBits = rest ∧ t.err = s.err

/-- 43_decoder.md R174, R177, R178: a path that ends at the NYT leaf, followed by the eight bits of a
literal, delivers the literal as a new symbol and consumes exactly those bits. -/
def Obligations.EscapedLiteralDecodesToItself : Prop :=
  ∀ (p rest : Bits) (v : Byte) (s : State), s.dst = .walk → s.depth + p.length ≤ 256 →
    s.litCnt = 0 → s.lit = 0 → pathClass s.tree s.node p = some .nytLeaf →
    s.pendingBits = p ++ byteBits v ++ rest →
    ∃ t, decTurns (p.length + 1 + 8) s = .next t ∧ t.dst = .wait ∧ t.sym = v ∧ t.symNew = true ∧
      t.result = ⟨false, v⟩ ∧ t.cwBits = s.cwBits + p.length + 8 ∧ t.pendingBits = rest ∧ t.err = s.err

/-! ## The tree space, the registers and the interrupt line -/

/-- 20_memory.md R76, R62: INS's tree writes land while DST is IDLE, WAIT, DONE or ERR, and then the word
reads as written and every other handle as before. While DST is WALK or LIT R76 says only that INS has no
such step; that the model's turn for one then changes nothing is the model's choice (log 6). -/
def Obligations.TreeWritesOnlyInTheWindow : Prop :=
  ∀ (s : State) (h : Handle) (w : NodeWord),
    (s.dst = .walk ∨ s.dst = .lit → s.insMove (.write h w) = s ∧ s.insMove (.setRoot h) = s) ∧
    (s.dst ≠ .walk → s.dst ≠ .lit →
      (∃ m, s.insMove (.write h w) = { s with tree := m } ∧ m.read h = w ∧
        ∀ k, k ≠ h → m.read k = s.tree.read k) ∧
      s.insMove (.setRoot h) = { s with troot := h })

/-- 10_state.md R38: the fields of STATUS, with the numbers of DST (R29) and WST (R31) and DDRV's map from
DEC's state to the driver states (R39). -/
def Obligations.StatusFields : Prop :=
  ∀ s : State,
    (s.regRead 0x0).getLsbD 0 = s.err ∧
    (s.regRead 0x0).getLsbD 1 = decide (s.dst = .walk ∨ s.dst = .lit ∨ s.dst = .wait) ∧
    (s.regRead 0x0).getLsbD 2 = decide (s.dst = .wait) ∧
    (s.regRead 0x0).getLsbD 3 = s.symNew ∧ (s.regRead 0x0).getLsbD 4 = s.rdEos ∧
    (s.regRead 0x0).getLsbD 5 = s.inEnd ∧ WstNumber s.wst ((s.regRead 0x0).extractLsb' 6 2) ∧
    (s.regRead 0x0).extractLsb' 8 2 =
      (if s.dst = .err then 3#2 else if s.dst = .done then 2#2
        else if s.inEnd = true ∧ s.inq = [] then 1#2 else 0#2) ∧
    DstNumber s.dst ((s.regRead 0x0).extractLsb' 10 3) ∧
    (s.regRead 0x0).getLsbD 13 = s.irq ∧ (s.regRead 0x0).extractLsb' 14 18 = 0

/-- 10_state.md R37: the fields of the other registers, for the states of the invariant, in which each
count fits its field; the bits R37 does not list read 0. -/
def Obligations.RegisterFields : Prop :=
  ∀ s : State, s.Inv →
    (ErrCodeNumber s.errCode ((s.regRead 0x1).extractLsb' 0 4) ∧
      ErrSrcNumber s.errSrc ((s.regRead 0x1).extractLsb' 4 2) ∧
      (s.regRead 0x1).extractLsb' 6 10 = 0 ∧ (s.regRead 0x1).extractLsb' 16 16 = s.errInfo) ∧
    ((s.regRead 0x2).extractLsb' 0 8 = s.result.data ∧ (s.regRead 0x2).getLsbD 8 = s.result.eos ∧
      (s.regRead 0x2).extractLsb' 9 23 = 0) ∧
    (s.regRead 0x3).toNat = s.seq0.length ∧ (s.regRead 0x4).toNat = s.seq1.length ∧
    ((s.regRead 0x5).extractLsb' 0 8 = s.wbuf ∧ ((s.regRead 0x5).extractLsb' 8 3).toNat = s.wcnt ∧
      (s.regRead 0x5).getLsbD 11 = false ∧ WstNumber s.wst ((s.regRead 0x5).extractLsb' 12 2) ∧
      (s.regRead 0x5).extractLsb' 14 18 = 0) ∧
    ((s.regRead 0x6).extractLsb' 0 8 = s.rbuf ∧ ((s.regRead 0x6).extractLsb' 8 4).toNat = s.rcnt ∧
      (s.regRead 0x6).getLsbD 12 = s.inEnd ∧ (s.regRead 0x6).getLsbD 13 = s.inq.isEmpty ∧
      (s.regRead 0x6).extractLsb' 14 18 = 0) ∧
    (DstNumber s.dst ((s.regRead 0x7).extractLsb' 0 3) ∧ (s.regRead 0x7).getLsbD 3 = s.cwZero ∧
      ((s.regRead 0x7).extractLsb' 4 9).toNat = s.cwBits ∧ (s.regRead 0x7).extractLsb' 13 3 = 0 ∧
      (s.regRead 0x7).extractLsb' 16 10 = s.node ∧ (s.regRead 0x7).extractLsb' 26 6 = 0) ∧
    ((s.regRead 0x8).extractLsb' 0 8 = s.sym ∧ (s.regRead 0x8).getLsbD 8 = s.symNew ∧
      (s.regRead 0x8).extractLsb' 9 23 = 0) ∧
    s.regRead 0x9 = s.outCount ∧ s.regRead 0xA = s.inCount ∧ s.regRead 0xB = s.symCount ∧
    ((s.regRead 0xC).extractLsb' 0 3 = s.ctrl ∧ (s.regRead 0xC).extractLsb' 3 29 = 0) ∧
    s.regRead 0xD = 0x48554646#32 ∧
    (((s.regRead 0xE).extractLsb' 0 9).toNat = s.depth ∧ (s.regRead 0xE).extractLsb' 9 3 = 0 ∧
      ((s.regRead 0xE).extractLsb' 12 4).toNat = s.litCnt ∧
      (s.regRead 0xE).extractLsb' 16 8 = s.lit ∧ (s.regRead 0xE).extractLsb' 24 8 = 0) ∧
    s.regRead 0xF = 0

/-- 20_memory.md R66: HOST's read of a register changes no state; it only uses up its turn. -/
def Obligations.RegisterReadsHaveNoEffect : Prop :=
  ∀ (s : State) (a : BitVec 4) (ts : List Turn), s.sched = .host (.readReg a) :: ts →
    step s = .next { s with sched := ts } ∧ ({ s with sched := ts }).regRead a = s.regRead a

/-- 60_exceptions.md R237, R238: after an enabled error is raised IRQ is 1; it is 0 when every enable is 0;
an acknowledged symbol withdraws the symbol source. -/
def Obligations.IrqFollowsItsSources : Prop :=
  ∀ s : State,
    (s.irq = true ↔ (s.ctrl.getLsbD 0 = true ∧ s.err = true) ∨
      (s.ctrl.getLsbD 1 = true ∧ s.dst = .wait) ∨ (s.ctrl.getLsbD 2 = true ∧ s.dst = .done)) ∧
    (s.regRead 0x0).getLsbD 13 = s.irq ∧ (s.ctrl = 0 → s.irq = false) ∧
    (∀ code src info, s.ctrl.getLsbD 0 = true → (s.raise code src info).irq = true) ∧
    (s.dst = .wait → s.err = false → s.insDone.irq = false)
end

