-- ==== Sys2Proof/Laws/Config.lean ====
section
/-! SUPPORT. The parameters of spec/00_scope.md R5 are the widths and bounds the model's types have. -/

namespace Sys2Proof.Machine

/-- The words' widths are NODE_W, CMD_W, REG_W and LIT_W. -/
theorem widths_are_the_parameters :
    Handle = BitVec Config.nodeW ∧ Word = BitVec Config.cmdW ∧ RegWord = BitVec Config.regW ∧
      Byte = BitVec Config.litW := ⟨rfl, rfl, rfl, rfl⟩

/-- The event counters have CNT_W bits. -/
theorem counters_have_cntW (s : State) : s.outCount.toNat < 2 ^ Config.cntW := s.outCount.isLt

/-- There are NSEQ sequence registers. -/
theorem selectors_are_nseq (s : Sel) : s ∈ [Sel.seq0, Sel.seq1] ∧ [Sel.seq0, Sel.seq1].length = Config.nseq := by
  cases s <;> simp

end Sys2Proof.Machine
end

