-- ==== Sys2Proof/Laws/State.lean ====
section
/-! SUPPORT. One lemma per field per named update of the state, so that no later proof unfolds a record
update, and the accessors of the two sequences. -/

namespace Sys2Proof.Machine

variable (s : State)

/-! ### takeWord -/

@[simp] theorem State.takeWord_seq0 : (s.takeWord).seq0 = s.seq0 := rfl
@[simp] theorem State.takeWord_seq1 : (s.takeWord).seq1 = s.seq1 := rfl
@[simp] theorem State.takeWord_wbuf : (s.takeWord).wbuf = s.wbuf := rfl
@[simp] theorem State.takeWord_wcnt : (s.takeWord).wcnt = s.wcnt := rfl
@[simp] theorem State.takeWord_wst : (s.takeWord).wst = s.wst := rfl
@[simp] theorem State.takeWord_rbuf : (s.takeWord).rbuf = s.rbuf := rfl
@[simp] theorem State.takeWord_rcnt : (s.takeWord).rcnt = s.rcnt := rfl
@[simp] theorem State.takeWord_inq : (s.takeWord).inq = s.inq := rfl
@[simp] theorem State.takeWord_inEnd : (s.takeWord).inEnd = s.inEnd := rfl
@[simp] theorem State.takeWord_dst : (s.takeWord).dst = s.dst := rfl
@[simp] theorem State.takeWord_node : (s.takeWord).node = s.node := rfl
@[simp] theorem State.takeWord_depth : (s.takeWord).depth = s.depth := rfl
@[simp] theorem State.takeWord_cwBits : (s.takeWord).cwBits = s.cwBits := rfl
@[simp] theorem State.takeWord_cwZero : (s.takeWord).cwZero = s.cwZero := rfl
@[simp] theorem State.takeWord_lit : (s.takeWord).lit = s.lit := rfl
@[simp] theorem State.takeWord_litCnt : (s.takeWord).litCnt = s.litCnt := rfl
@[simp] theorem State.takeWord_sym : (s.takeWord).sym = s.sym := rfl
@[simp] theorem State.takeWord_symNew : (s.takeWord).symNew = s.symNew := rfl
@[simp] theorem State.takeWord_result : (s.takeWord).result = s.result := rfl
@[simp] theorem State.takeWord_err : (s.takeWord).err = s.err := rfl
@[simp] theorem State.takeWord_errCode : (s.takeWord).errCode = s.errCode := rfl
@[simp] theorem State.takeWord_errSrc : (s.takeWord).errSrc = s.errSrc := rfl
@[simp] theorem State.takeWord_errInfo : (s.takeWord).errInfo = s.errInfo := rfl
@[simp] theorem State.takeWord_ctrl : (s.takeWord).ctrl = s.ctrl := rfl
@[simp] theorem State.takeWord_outCount : (s.takeWord).outCount = s.outCount := rfl
@[simp] theorem State.takeWord_inCount : (s.takeWord).inCount = s.inCount := rfl
@[simp] theorem State.takeWord_symCount : (s.takeWord).symCount = s.symCount := rfl
@[simp] theorem State.takeWord_out : (s.takeWord).out = s.out := rfl
@[simp] theorem State.takeWord_tree : (s.takeWord).tree = s.tree := rfl
@[simp] theorem State.takeWord_troot : (s.takeWord).troot = s.troot := rfl
@[simp] theorem State.takeWord_cmdq : (s.takeWord).cmdq = s.cmdq.tail := rfl
@[simp] theorem State.takeWord_cmdIndex : (s.takeWord).cmdIndex = s.cmdIndex + 1 := rfl
@[simp] theorem State.takeWord_sched : (s.takeWord).sched = s.sched := rfl
@[simp] theorem State.takeWord_freeUsed : (s.takeWord).freeUsed = s.freeUsed := rfl

/-! ### setData -/

@[simp] theorem State.setData_seq0 (v : Byte) : (s.setData v).seq0 = s.seq0 := rfl
@[simp] theorem State.setData_seq1 (v : Byte) : (s.setData v).seq1 = s.seq1 := rfl
@[simp] theorem State.setData_wbuf (v : Byte) : (s.setData v).wbuf = s.wbuf := rfl
@[simp] theorem State.setData_wcnt (v : Byte) : (s.setData v).wcnt = s.wcnt := rfl
@[simp] theorem State.setData_wst (v : Byte) : (s.setData v).wst = s.wst := rfl
@[simp] theorem State.setData_rbuf (v : Byte) : (s.setData v).rbuf = s.rbuf := rfl
@[simp] theorem State.setData_rcnt (v : Byte) : (s.setData v).rcnt = s.rcnt := rfl
@[simp] theorem State.setData_inq (v : Byte) : (s.setData v).inq = s.inq := rfl
@[simp] theorem State.setData_inEnd (v : Byte) : (s.setData v).inEnd = s.inEnd := rfl
@[simp] theorem State.setData_dst (v : Byte) : (s.setData v).dst = s.dst := rfl
@[simp] theorem State.setData_node (v : Byte) : (s.setData v).node = s.node := rfl
@[simp] theorem State.setData_depth (v : Byte) : (s.setData v).depth = s.depth := rfl
@[simp] theorem State.setData_cwBits (v : Byte) : (s.setData v).cwBits = s.cwBits := rfl
@[simp] theorem State.setData_cwZero (v : Byte) : (s.setData v).cwZero = s.cwZero := rfl
@[simp] theorem State.setData_lit (v : Byte) : (s.setData v).lit = s.lit := rfl
@[simp] theorem State.setData_litCnt (v : Byte) : (s.setData v).litCnt = s.litCnt := rfl
@[simp] theorem State.setData_sym (v : Byte) : (s.setData v).sym = s.sym := rfl
@[simp] theorem State.setData_symNew (v : Byte) : (s.setData v).symNew = s.symNew := rfl
@[simp] theorem State.setData_result (v : Byte) : (s.setData v).result = ⟨false, v⟩ := rfl
@[simp] theorem State.setData_err (v : Byte) : (s.setData v).err = s.err := rfl
@[simp] theorem State.setData_errCode (v : Byte) : (s.setData v).errCode = s.errCode := rfl
@[simp] theorem State.setData_errSrc (v : Byte) : (s.setData v).errSrc = s.errSrc := rfl
@[simp] theorem State.setData_errInfo (v : Byte) : (s.setData v).errInfo = s.errInfo := rfl
@[simp] theorem State.setData_ctrl (v : Byte) : (s.setData v).ctrl = s.ctrl := rfl
@[simp] theorem State.setData_outCount (v : Byte) : (s.setData v).outCount = s.outCount := rfl
@[simp] theorem State.setData_inCount (v : Byte) : (s.setData v).inCount = s.inCount := rfl
@[simp] theorem State.setData_symCount (v : Byte) : (s.setData v).symCount = s.symCount := rfl
@[simp] theorem State.setData_out (v : Byte) : (s.setData v).out = s.out := rfl
@[simp] theorem State.setData_tree (v : Byte) : (s.setData v).tree = s.tree := rfl
@[simp] theorem State.setData_troot (v : Byte) : (s.setData v).troot = s.troot := rfl
@[simp] theorem State.setData_cmdq (v : Byte) : (s.setData v).cmdq = s.cmdq := rfl
@[simp] theorem State.setData_cmdIndex (v : Byte) : (s.setData v).cmdIndex = s.cmdIndex := rfl
@[simp] theorem State.setData_sched (v : Byte) : (s.setData v).sched = s.sched := rfl
@[simp] theorem State.setData_freeUsed (v : Byte) : (s.setData v).freeUsed = s.freeUsed := rfl

/-! ### setEos -/

@[simp] theorem State.setEos_seq0 : (s.setEos).seq0 = s.seq0 := rfl
@[simp] theorem State.setEos_seq1 : (s.setEos).seq1 = s.seq1 := rfl
@[simp] theorem State.setEos_wbuf : (s.setEos).wbuf = s.wbuf := rfl
@[simp] theorem State.setEos_wcnt : (s.setEos).wcnt = s.wcnt := rfl
@[simp] theorem State.setEos_wst : (s.setEos).wst = s.wst := rfl
@[simp] theorem State.setEos_rbuf : (s.setEos).rbuf = s.rbuf := rfl
@[simp] theorem State.setEos_rcnt : (s.setEos).rcnt = s.rcnt := rfl
@[simp] theorem State.setEos_inq : (s.setEos).inq = s.inq := rfl
@[simp] theorem State.setEos_inEnd : (s.setEos).inEnd = s.inEnd := rfl
@[simp] theorem State.setEos_dst : (s.setEos).dst = s.dst := rfl
@[simp] theorem State.setEos_node : (s.setEos).node = s.node := rfl
@[simp] theorem State.setEos_depth : (s.setEos).depth = s.depth := rfl
@[simp] theorem State.setEos_cwBits : (s.setEos).cwBits = s.cwBits := rfl
@[simp] theorem State.setEos_cwZero : (s.setEos).cwZero = s.cwZero := rfl
@[simp] theorem State.setEos_lit : (s.setEos).lit = s.lit := rfl
@[simp] theorem State.setEos_litCnt : (s.setEos).litCnt = s.litCnt := rfl
@[simp] theorem State.setEos_sym : (s.setEos).sym = s.sym := rfl
@[simp] theorem State.setEos_symNew : (s.setEos).symNew = s.symNew := rfl
@[simp] theorem State.setEos_result : (s.setEos).result = ⟨true, 0⟩ := rfl
@[simp] theorem State.setEos_err : (s.setEos).err = s.err := rfl
@[simp] theorem State.setEos_errCode : (s.setEos).errCode = s.errCode := rfl
@[simp] theorem State.setEos_errSrc : (s.setEos).errSrc = s.errSrc := rfl
@[simp] theorem State.setEos_errInfo : (s.setEos).errInfo = s.errInfo := rfl
@[simp] theorem State.setEos_ctrl : (s.setEos).ctrl = s.ctrl := rfl
@[simp] theorem State.setEos_outCount : (s.setEos).outCount = s.outCount := rfl
@[simp] theorem State.setEos_inCount : (s.setEos).inCount = s.inCount := rfl
@[simp] theorem State.setEos_symCount : (s.setEos).symCount = s.symCount := rfl
@[simp] theorem State.setEos_out : (s.setEos).out = s.out := rfl
@[simp] theorem State.setEos_tree : (s.setEos).tree = s.tree := rfl
@[simp] theorem State.setEos_troot : (s.setEos).troot = s.troot := rfl
@[simp] theorem State.setEos_cmdq : (s.setEos).cmdq = s.cmdq := rfl
@[simp] theorem State.setEos_cmdIndex : (s.setEos).cmdIndex = s.cmdIndex := rfl
@[simp] theorem State.setEos_sched : (s.setEos).sched = s.sched := rfl
@[simp] theorem State.setEos_freeUsed : (s.setEos).freeUsed = s.freeUsed := rfl

/-! ### emitByte -/

@[simp] theorem State.emitByte_seq0 (v : Byte) : (s.emitByte v).seq0 = s.seq0 := rfl
@[simp] theorem State.emitByte_seq1 (v : Byte) : (s.emitByte v).seq1 = s.seq1 := rfl
@[simp] theorem State.emitByte_wbuf (v : Byte) : (s.emitByte v).wbuf = s.wbuf := rfl
@[simp] theorem State.emitByte_wcnt (v : Byte) : (s.emitByte v).wcnt = s.wcnt := rfl
@[simp] theorem State.emitByte_wst (v : Byte) : (s.emitByte v).wst = s.wst := rfl
@[simp] theorem State.emitByte_rbuf (v : Byte) : (s.emitByte v).rbuf = s.rbuf := rfl
@[simp] theorem State.emitByte_rcnt (v : Byte) : (s.emitByte v).rcnt = s.rcnt := rfl
@[simp] theorem State.emitByte_inq (v : Byte) : (s.emitByte v).inq = s.inq := rfl
@[simp] theorem State.emitByte_inEnd (v : Byte) : (s.emitByte v).inEnd = s.inEnd := rfl
@[simp] theorem State.emitByte_dst (v : Byte) : (s.emitByte v).dst = s.dst := rfl
@[simp] theorem State.emitByte_node (v : Byte) : (s.emitByte v).node = s.node := rfl
@[simp] theorem State.emitByte_depth (v : Byte) : (s.emitByte v).depth = s.depth := rfl
@[simp] theorem State.emitByte_cwBits (v : Byte) : (s.emitByte v).cwBits = s.cwBits := rfl
@[simp] theorem State.emitByte_cwZero (v : Byte) : (s.emitByte v).cwZero = s.cwZero := rfl
@[simp] theorem State.emitByte_lit (v : Byte) : (s.emitByte v).lit = s.lit := rfl
@[simp] theorem State.emitByte_litCnt (v : Byte) : (s.emitByte v).litCnt = s.litCnt := rfl
@[simp] theorem State.emitByte_sym (v : Byte) : (s.emitByte v).sym = s.sym := rfl
@[simp] theorem State.emitByte_symNew (v : Byte) : (s.emitByte v).symNew = s.symNew := rfl
@[simp] theorem State.emitByte_result (v : Byte) : (s.emitByte v).result = s.result := rfl
@[simp] theorem State.emitByte_err (v : Byte) : (s.emitByte v).err = s.err := rfl
@[simp] theorem State.emitByte_errCode (v : Byte) : (s.emitByte v).errCode = s.errCode := rfl
@[simp] theorem State.emitByte_errSrc (v : Byte) : (s.emitByte v).errSrc = s.errSrc := rfl
@[simp] theorem State.emitByte_errInfo (v : Byte) : (s.emitByte v).errInfo = s.errInfo := rfl
@[simp] theorem State.emitByte_ctrl (v : Byte) : (s.emitByte v).ctrl = s.ctrl := rfl
@[simp] theorem State.emitByte_outCount (v : Byte) : (s.emitByte v).outCount = s.outCount + 1 := rfl
@[simp] theorem State.emitByte_inCount (v : Byte) : (s.emitByte v).inCount = s.inCount := rfl
@[simp] theorem State.emitByte_symCount (v : Byte) : (s.emitByte v).symCount = s.symCount := rfl
@[simp] theorem State.emitByte_out (v : Byte) : (s.emitByte v).out = s.out ++ [v] := rfl
@[simp] theorem State.emitByte_tree (v : Byte) : (s.emitByte v).tree = s.tree := rfl
@[simp] theorem State.emitByte_troot (v : Byte) : (s.emitByte v).troot = s.troot := rfl
@[simp] theorem State.emitByte_cmdq (v : Byte) : (s.emitByte v).cmdq = s.cmdq := rfl
@[simp] theorem State.emitByte_cmdIndex (v : Byte) : (s.emitByte v).cmdIndex = s.cmdIndex := rfl
@[simp] theorem State.emitByte_sched (v : Byte) : (s.emitByte v).sched = s.sched := rfl
@[simp] theorem State.emitByte_freeUsed (v : Byte) : (s.emitByte v).freeUsed = s.freeUsed := rfl

/-! ### countBit -/

@[simp] theorem State.countBit_seq0 (b : Bool) : (s.countBit b).seq0 = s.seq0 := rfl
@[simp] theorem State.countBit_seq1 (b : Bool) : (s.countBit b).seq1 = s.seq1 := rfl
@[simp] theorem State.countBit_wbuf (b : Bool) : (s.countBit b).wbuf = s.wbuf := rfl
@[simp] theorem State.countBit_wcnt (b : Bool) : (s.countBit b).wcnt = s.wcnt := rfl
@[simp] theorem State.countBit_wst (b : Bool) : (s.countBit b).wst = s.wst := rfl
@[simp] theorem State.countBit_rbuf (b : Bool) : (s.countBit b).rbuf = s.rbuf := rfl
@[simp] theorem State.countBit_rcnt (b : Bool) : (s.countBit b).rcnt = s.rcnt := rfl
@[simp] theorem State.countBit_inq (b : Bool) : (s.countBit b).inq = s.inq := rfl
@[simp] theorem State.countBit_inEnd (b : Bool) : (s.countBit b).inEnd = s.inEnd := rfl
@[simp] theorem State.countBit_dst (b : Bool) : (s.countBit b).dst = s.dst := rfl
@[simp] theorem State.countBit_node (b : Bool) : (s.countBit b).node = s.node := rfl
@[simp] theorem State.countBit_depth (b : Bool) : (s.countBit b).depth = s.depth := rfl
@[simp] theorem State.countBit_cwBits (b : Bool) : (s.countBit b).cwBits = s.cwBits + 1 := rfl
@[simp] theorem State.countBit_cwZero (b : Bool) : (s.countBit b).cwZero = (s.cwZero && !b) := rfl
@[simp] theorem State.countBit_lit (b : Bool) : (s.countBit b).lit = s.lit := rfl
@[simp] theorem State.countBit_litCnt (b : Bool) : (s.countBit b).litCnt = s.litCnt := rfl
@[simp] theorem State.countBit_sym (b : Bool) : (s.countBit b).sym = s.sym := rfl
@[simp] theorem State.countBit_symNew (b : Bool) : (s.countBit b).symNew = s.symNew := rfl
@[simp] theorem State.countBit_result (b : Bool) : (s.countBit b).result = s.result := rfl
@[simp] theorem State.countBit_err (b : Bool) : (s.countBit b).err = s.err := rfl
@[simp] theorem State.countBit_errCode (b : Bool) : (s.countBit b).errCode = s.errCode := rfl
@[simp] theorem State.countBit_errSrc (b : Bool) : (s.countBit b).errSrc = s.errSrc := rfl
@[simp] theorem State.countBit_errInfo (b : Bool) : (s.countBit b).errInfo = s.errInfo := rfl
@[simp] theorem State.countBit_ctrl (b : Bool) : (s.countBit b).ctrl = s.ctrl := rfl
@[simp] theorem State.countBit_outCount (b : Bool) : (s.countBit b).outCount = s.outCount := rfl
@[simp] theorem State.countBit_inCount (b : Bool) : (s.countBit b).inCount = s.inCount := rfl
@[simp] theorem State.countBit_symCount (b : Bool) : (s.countBit b).symCount = s.symCount := rfl
@[simp] theorem State.countBit_out (b : Bool) : (s.countBit b).out = s.out := rfl
@[simp] theorem State.countBit_tree (b : Bool) : (s.countBit b).tree = s.tree := rfl
@[simp] theorem State.countBit_troot (b : Bool) : (s.countBit b).troot = s.troot := rfl
@[simp] theorem State.countBit_cmdq (b : Bool) : (s.countBit b).cmdq = s.cmdq := rfl
@[simp] theorem State.countBit_cmdIndex (b : Bool) : (s.countBit b).cmdIndex = s.cmdIndex := rfl
@[simp] theorem State.countBit_sched (b : Bool) : (s.countBit b).sched = s.sched := rfl
@[simp] theorem State.countBit_freeUsed (b : Bool) : (s.countBit b).freeUsed = s.freeUsed := rfl

/-! ### deliver -/

@[simp] theorem State.deliver_seq0 (v : Byte) (n : Bool) : (s.deliver v n).seq0 = s.seq0 := rfl
@[simp] theorem State.deliver_seq1 (v : Byte) (n : Bool) : (s.deliver v n).seq1 = s.seq1 := rfl
@[simp] theorem State.deliver_wbuf (v : Byte) (n : Bool) : (s.deliver v n).wbuf = s.wbuf := rfl
@[simp] theorem State.deliver_wcnt (v : Byte) (n : Bool) : (s.deliver v n).wcnt = s.wcnt := rfl
@[simp] theorem State.deliver_wst (v : Byte) (n : Bool) : (s.deliver v n).wst = s.wst := rfl
@[simp] theorem State.deliver_rbuf (v : Byte) (n : Bool) : (s.deliver v n).rbuf = s.rbuf := rfl
@[simp] theorem State.deliver_rcnt (v : Byte) (n : Bool) : (s.deliver v n).rcnt = s.rcnt := rfl
@[simp] theorem State.deliver_inq (v : Byte) (n : Bool) : (s.deliver v n).inq = s.inq := rfl
@[simp] theorem State.deliver_inEnd (v : Byte) (n : Bool) : (s.deliver v n).inEnd = s.inEnd := rfl
@[simp] theorem State.deliver_dst (v : Byte) (n : Bool) : (s.deliver v n).dst = .wait := rfl
@[simp] theorem State.deliver_node (v : Byte) (n : Bool) : (s.deliver v n).node = s.node := rfl
@[simp] theorem State.deliver_depth (v : Byte) (n : Bool) : (s.deliver v n).depth = s.depth := rfl
@[simp] theorem State.deliver_cwBits (v : Byte) (n : Bool) : (s.deliver v n).cwBits = s.cwBits := rfl
@[simp] theorem State.deliver_cwZero (v : Byte) (n : Bool) : (s.deliver v n).cwZero = s.cwZero := rfl
@[simp] theorem State.deliver_lit (v : Byte) (n : Bool) : (s.deliver v n).lit = s.lit := rfl
@[simp] theorem State.deliver_litCnt (v : Byte) (n : Bool) : (s.deliver v n).litCnt = s.litCnt := rfl
@[simp] theorem State.deliver_sym (v : Byte) (n : Bool) : (s.deliver v n).sym = v := rfl
@[simp] theorem State.deliver_symNew (v : Byte) (n : Bool) : (s.deliver v n).symNew = n := rfl
@[simp] theorem State.deliver_result (v : Byte) (n : Bool) : (s.deliver v n).result = ⟨false, v⟩ := rfl
@[simp] theorem State.deliver_err (v : Byte) (n : Bool) : (s.deliver v n).err = s.err := rfl
@[simp] theorem State.deliver_errCode (v : Byte) (n : Bool) : (s.deliver v n).errCode = s.errCode := rfl
@[simp] theorem State.deliver_errSrc (v : Byte) (n : Bool) : (s.deliver v n).errSrc = s.errSrc := rfl
@[simp] theorem State.deliver_errInfo (v : Byte) (n : Bool) : (s.deliver v n).errInfo = s.errInfo := rfl
@[simp] theorem State.deliver_ctrl (v : Byte) (n : Bool) : (s.deliver v n).ctrl = s.ctrl := rfl
@[simp] theorem State.deliver_outCount (v : Byte) (n : Bool) : (s.deliver v n).outCount = s.outCount := rfl
@[simp] theorem State.deliver_inCount (v : Byte) (n : Bool) : (s.deliver v n).inCount = s.inCount := rfl
@[simp] theorem State.deliver_symCount (v : Byte) (n : Bool) : (s.deliver v n).symCount = s.symCount := rfl
@[simp] theorem State.deliver_out (v : Byte) (n : Bool) : (s.deliver v n).out = s.out := rfl
@[simp] theorem State.deliver_tree (v : Byte) (n : Bool) : (s.deliver v n).tree = s.tree := rfl
@[simp] theorem State.deliver_troot (v : Byte) (n : Bool) : (s.deliver v n).troot = s.troot := rfl
@[simp] theorem State.deliver_cmdq (v : Byte) (n : Bool) : (s.deliver v n).cmdq = s.cmdq := rfl
@[simp] theorem State.deliver_cmdIndex (v : Byte) (n : Bool) : (s.deliver v n).cmdIndex = s.cmdIndex := rfl
@[simp] theorem State.deliver_sched (v : Byte) (n : Bool) : (s.deliver v n).sched = s.sched := rfl
@[simp] theorem State.deliver_freeUsed (v : Byte) (n : Bool) : (s.deliver v n).freeUsed = s.freeUsed := rfl

/-! ### setSeq -/

@[simp] theorem State.setSeq_wbuf (sel : Sel) (v : Bits) : (s.setSeq sel v).wbuf = s.wbuf := by
  cases sel <;> rfl
@[simp] theorem State.setSeq_wcnt (sel : Sel) (v : Bits) : (s.setSeq sel v).wcnt = s.wcnt := by
  cases sel <;> rfl
@[simp] theorem State.setSeq_wst (sel : Sel) (v : Bits) : (s.setSeq sel v).wst = s.wst := by
  cases sel <;> rfl
@[simp] theorem State.setSeq_rbuf (sel : Sel) (v : Bits) : (s.setSeq sel v).rbuf = s.rbuf := by
  cases sel <;> rfl
@[simp] theorem State.setSeq_rcnt (sel : Sel) (v : Bits) : (s.setSeq sel v).rcnt = s.rcnt := by
  cases sel <;> rfl
@[simp] theorem State.setSeq_inq (sel : Sel) (v : Bits) : (s.setSeq sel v).inq = s.inq := by
  cases sel <;> rfl
@[simp] theorem State.setSeq_inEnd (sel : Sel) (v : Bits) : (s.setSeq sel v).inEnd = s.inEnd := by
  cases sel <;> rfl
@[simp] theorem State.setSeq_dst (sel : Sel) (v : Bits) : (s.setSeq sel v).dst = s.dst := by
  cases sel <;> rfl
@[simp] theorem State.setSeq_node (sel : Sel) (v : Bits) : (s.setSeq sel v).node = s.node := by
  cases sel <;> rfl
@[simp] theorem State.setSeq_depth (sel : Sel) (v : Bits) : (s.setSeq sel v).depth = s.depth := by
  cases sel <;> rfl
@[simp] theorem State.setSeq_cwBits (sel : Sel) (v : Bits) : (s.setSeq sel v).cwBits = s.cwBits := by
  cases sel <;> rfl
@[simp] theorem State.setSeq_cwZero (sel : Sel) (v : Bits) : (s.setSeq sel v).cwZero = s.cwZero := by
  cases sel <;> rfl
@[simp] theorem State.setSeq_lit (sel : Sel) (v : Bits) : (s.setSeq sel v).lit = s.lit := by
  cases sel <;> rfl
@[simp] theorem State.setSeq_litCnt (sel : Sel) (v : Bits) : (s.setSeq sel v).litCnt = s.litCnt := by
  cases sel <;> rfl
@[simp] theorem State.setSeq_sym (sel : Sel) (v : Bits) : (s.setSeq sel v).sym = s.sym := by
  cases sel <;> rfl
@[simp] theorem State.setSeq_symNew (sel : Sel) (v : Bits) : (s.setSeq sel v).symNew = s.symNew := by
  cases sel <;> rfl
@[simp] theorem State.setSeq_result (sel : Sel) (v : Bits) : (s.setSeq sel v).result = s.result := by
  cases sel <;> rfl
@[simp] theorem State.setSeq_err (sel : Sel) (v : Bits) : (s.setSeq sel v).err = s.err := by
  cases sel <;> rfl
@[simp] theorem State.setSeq_errCode (sel : Sel) (v : Bits) : (s.setSeq sel v).errCode = s.errCode := by
  cases sel <;> rfl
@[simp] theorem State.setSeq_errSrc (sel : Sel) (v : Bits) : (s.setSeq sel v).errSrc = s.errSrc := by
  cases sel <;> rfl
@[simp] theorem State.setSeq_errInfo (sel : Sel) (v : Bits) : (s.setSeq sel v).errInfo = s.errInfo := by
  cases sel <;> rfl
@[simp] theorem State.setSeq_ctrl (sel : Sel) (v : Bits) : (s.setSeq sel v).ctrl = s.ctrl := by
  cases sel <;> rfl
@[simp] theorem State.setSeq_outCount (sel : Sel) (v : Bits) : (s.setSeq sel v).outCount = s.outCount := by
  cases sel <;> rfl
@[simp] theorem State.setSeq_inCount (sel : Sel) (v : Bits) : (s.setSeq sel v).inCount = s.inCount := by
  cases sel <;> rfl
@[simp] theorem State.setSeq_symCount (sel : Sel) (v : Bits) : (s.setSeq sel v).symCount = s.symCount := by
  cases sel <;> rfl
@[simp] theorem State.setSeq_out (sel : Sel) (v : Bits) : (s.setSeq sel v).out = s.out := by
  cases sel <;> rfl
@[simp] theorem State.setSeq_tree (sel : Sel) (v : Bits) : (s.setSeq sel v).tree = s.tree := by
  cases sel <;> rfl
@[simp] theorem State.setSeq_troot (sel : Sel) (v : Bits) : (s.setSeq sel v).troot = s.troot := by
  cases sel <;> rfl
@[simp] theorem State.setSeq_cmdq (sel : Sel) (v : Bits) : (s.setSeq sel v).cmdq = s.cmdq := by
  cases sel <;> rfl
@[simp] theorem State.setSeq_cmdIndex (sel : Sel) (v : Bits) : (s.setSeq sel v).cmdIndex = s.cmdIndex := by
  cases sel <;> rfl
@[simp] theorem State.setSeq_sched (sel : Sel) (v : Bits) : (s.setSeq sel v).sched = s.sched := by
  cases sel <;> rfl
@[simp] theorem State.setSeq_freeUsed (sel : Sel) (v : Bits) : (s.setSeq sel v).freeUsed = s.freeUsed := by
  cases sel <;> rfl

@[simp] theorem Sel.other_other (sel : Sel) : sel.other.other = sel := by cases sel <;> rfl

@[simp] theorem State.seq_setSeq_same (sel : Sel) (v : Bits) : (s.setSeq sel v).seq sel = v := by
  cases sel <;> rfl

@[simp] theorem State.seq_setSeq_other (sel : Sel) (v : Bits) :
    (s.setSeq sel v).seq sel.other = s.seq sel.other := by
  cases sel <;> rfl

@[simp] theorem State.seq_setSeq_of_other (sel : Sel) (v : Bits) :
    (s.setSeq sel.other v).seq sel = s.seq sel := by
  cases sel <;> rfl

@[simp] theorem State.seq_takeWord (sel : Sel) : s.takeWord.seq sel = s.seq sel := by
  cases sel <;> rfl

/-! ### raise -/

/-- With ERR = 1 already, nothing changes: the first error is kept (60_exceptions.md R232). -/
theorem State.raise_of_err {s : State} (h : s.err = true) (c : ErrCode) (r : ErrSrc) (i : BitVec 16) :
    s.raise c r i = s := by
  simp [State.raise, h]

/-- With ERR = 0 the error is recorded (60_exceptions.md R232). -/
theorem State.raise_of_ok {s : State} (h : s.err = false) (c : ErrCode) (r : ErrSrc) (i : BitVec 16) :
    s.raise c r i = { s with err := true, errCode := c, errSrc := r, errInfo := i, dst := .err } := by
  simp [State.raise, h]

@[simp] theorem State.raise_err (c : ErrCode) (r : ErrSrc) (i : BitVec 16) :
    (s.raise c r i).err = true := by
  unfold State.raise; split <;> simp_all

@[simp] theorem State.raise_seq0 (c : ErrCode) (r : ErrSrc) (i : BitVec 16) : (s.raise c r i).seq0 = s.seq0 := by
  unfold State.raise; split <;> rfl
@[simp] theorem State.raise_seq1 (c : ErrCode) (r : ErrSrc) (i : BitVec 16) : (s.raise c r i).seq1 = s.seq1 := by
  unfold State.raise; split <;> rfl
@[simp] theorem State.raise_wbuf (c : ErrCode) (r : ErrSrc) (i : BitVec 16) : (s.raise c r i).wbuf = s.wbuf := by
  unfold State.raise; split <;> rfl
@[simp] theorem State.raise_wcnt (c : ErrCode) (r : ErrSrc) (i : BitVec 16) : (s.raise c r i).wcnt = s.wcnt := by
  unfold State.raise; split <;> rfl
@[simp] theorem State.raise_wst (c : ErrCode) (r : ErrSrc) (i : BitVec 16) : (s.raise c r i).wst = s.wst := by
  unfold State.raise; split <;> rfl
@[simp] theorem State.raise_rbuf (c : ErrCode) (r : ErrSrc) (i : BitVec 16) : (s.raise c r i).rbuf = s.rbuf := by
  unfold State.raise; split <;> rfl
@[simp] theorem State.raise_rcnt (c : ErrCode) (r : ErrSrc) (i : BitVec 16) : (s.raise c r i).rcnt = s.rcnt := by
  unfold State.raise; split <;> rfl
@[simp] theorem State.raise_inq (c : ErrCode) (r : ErrSrc) (i : BitVec 16) : (s.raise c r i).inq = s.inq := by
  unfold State.raise; split <;> rfl
@[simp] theorem State.raise_inEnd (c : ErrCode) (r : ErrSrc) (i : BitVec 16) : (s.raise c r i).inEnd = s.inEnd := by
  unfold State.raise; split <;> rfl
@[simp] theorem State.raise_node (c : ErrCode) (r : ErrSrc) (i : BitVec 16) : (s.raise c r i).node = s.node := by
  unfold State.raise; split <;> rfl
@[simp] theorem State.raise_depth (c : ErrCode) (r : ErrSrc) (i : BitVec 16) : (s.raise c r i).depth = s.depth := by
  unfold State.raise; split <;> rfl
@[simp] theorem State.raise_cwBits (c : ErrCode) (r : ErrSrc) (i : BitVec 16) : (s.raise c r i).cwBits = s.cwBits := by
  unfold State.raise; split <;> rfl
@[simp] theorem State.raise_cwZero (c : ErrCode) (r : ErrSrc) (i : BitVec 16) : (s.raise c r i).cwZero = s.cwZero := by
  unfold State.raise; split <;> rfl
@[simp] theorem State.raise_lit (c : ErrCode) (r : ErrSrc) (i : BitVec 16) : (s.raise c r i).lit = s.lit := by
  unfold State.raise; split <;> rfl
@[simp] theorem State.raise_litCnt (c : ErrCode) (r : ErrSrc) (i : BitVec 16) : (s.raise c r i).litCnt = s.litCnt := by
  unfold State.raise; split <;> rfl
@[simp] theorem State.raise_sym (c : ErrCode) (r : ErrSrc) (i : BitVec 16) : (s.raise c r i).sym = s.sym := by
  unfold State.raise; split <;> rfl
@[simp] theorem State.raise_symNew (c : ErrCode) (r : ErrSrc) (i : BitVec 16) : (s.raise c r i).symNew = s.symNew := by
  unfold State.raise; split <;> rfl
@[simp] theorem State.raise_result (c : ErrCode) (r : ErrSrc) (i : BitVec 16) : (s.raise c r i).result = s.result := by
  unfold State.raise; split <;> rfl
@[simp] theorem State.raise_ctrl (c : ErrCode) (r : ErrSrc) (i : BitVec 16) : (s.raise c r i).ctrl = s.ctrl := by
  unfold State.raise; split <;> rfl
@[simp] theorem State.raise_outCount (c : ErrCode) (r : ErrSrc) (i : BitVec 16) : (s.raise c r i).outCount = s.outCount := by
  unfold State.raise; split <;> rfl
@[simp] theorem State.raise_inCount (c : ErrCode) (r : ErrSrc) (i : BitVec 16) : (s.raise c r i).inCount = s.inCount := by
  unfold State.raise; split <;> rfl
@[simp] theorem State.raise_symCount (c : ErrCode) (r : ErrSrc) (i : BitVec 16) : (s.raise c r i).symCount = s.symCount := by
  unfold State.raise; split <;> rfl
@[simp] theorem State.raise_out (c : ErrCode) (r : ErrSrc) (i : BitVec 16) : (s.raise c r i).out = s.out := by
  unfold State.raise; split <;> rfl
@[simp] theorem State.raise_tree (c : ErrCode) (r : ErrSrc) (i : BitVec 16) : (s.raise c r i).tree = s.tree := by
  unfold State.raise; split <;> rfl
@[simp] theorem State.raise_troot (c : ErrCode) (r : ErrSrc) (i : BitVec 16) : (s.raise c r i).troot = s.troot := by
  unfold State.raise; split <;> rfl
@[simp] theorem State.raise_cmdq (c : ErrCode) (r : ErrSrc) (i : BitVec 16) : (s.raise c r i).cmdq = s.cmdq := by
  unfold State.raise; split <;> rfl
@[simp] theorem State.raise_cmdIndex (c : ErrCode) (r : ErrSrc) (i : BitVec 16) : (s.raise c r i).cmdIndex = s.cmdIndex := by
  unfold State.raise; split <;> rfl
@[simp] theorem State.raise_sched (c : ErrCode) (r : ErrSrc) (i : BitVec 16) : (s.raise c r i).sched = s.sched := by
  unfold State.raise; split <;> rfl
@[simp] theorem State.raise_freeUsed (c : ErrCode) (r : ErrSrc) (i : BitVec 16) : (s.raise c r i).freeUsed = s.freeUsed := by
  unfold State.raise; split <;> rfl

end Sys2Proof.Machine
end

