-- ==== Sys2Proof/Laws/Ops.lean ====
section
/-! SUPPORT. For each shared operation, what it can do: the cases of CMD's step, and which fields the
packer's and the unpacker's primitives write. -/

namespace Sys2Proof.Machine

variable (s : State)

/-! ### CMD's step -/

/-- CMD runs the command: it takes the word, and the command's body follows. -/
theorem State.issue_runs {s : State} (h : s.Runs) {en : Bool} (he : en = true) (f : State → State) :
    s.issue en f = f s.takeWord := by
  simp [State.issue, h.1, h.2, he]

/-- While DEC is busy the word waits (10_state.md R44). -/
theorem State.issue_busy {s : State} (h : s.busy = true) (en : Bool) (f : State → State) :
    s.issue en f = s := by
  simp [State.issue, h]

/-- With ERR = 1 the word is taken and discarded (60_exceptions.md R235). -/
theorem State.issue_discards {s : State} (hb : s.busy = false) (h : s.err = true) (en : Bool)
    (f : State → State) : s.issue en f = s.takeWord := by
  simp [State.issue, hb, h]

/-- A command that is not enabled holds (42_reader.md R152). -/
theorem State.issue_holds {s : State} (h : s.Runs) (f : State → State) : s.issue false f = s := by
  simp [State.issue, h.1, h.2]

/-- Everything CMD's step can do. -/
theorem State.issue_cases (en : Bool) (f : State → State) :
    s.issue en f = s ∨ (s.busy = false ∧ s.err = true ∧ s.issue en f = s.takeWord) ∨
      (s.Runs ∧ en = true ∧ s.issue en f = f s.takeWord) := by
  unfold State.issue State.Runs
  cases s.busy <;> cases s.err <;> cases en <;> simp

/-! ### The packer -/

/-- The eighth bit completes a byte (41_writer.md R130). -/
theorem State.writeBit_eighth {s : State} (h : s.wcnt = 7) (b : Bool) :
    s.writeBit b = { s.emitByte (shiftIn s.wbuf b) with wbuf := 0, wcnt := 0 } := by
  simp [State.writeBit, h]

/-- Any other bit is held (41_writer.md R130). -/
theorem State.writeBit_held {s : State} (h : s.wcnt ≠ 7) (b : Bool) :
    s.writeBit b = { s with wbuf := shiftIn s.wbuf b, wcnt := s.wcnt + 1 } := by
  have : ¬ s.wcnt + 1 = 8 := by omega
  simp [State.writeBit, this]

/-- `WriteBit` writes WBUF, WCNT, OUT and OUT_COUNT only. -/
theorem State.writeBit_frame (b : Bool) : ∃ w c o n,
    s.writeBit b = { s with wbuf := w, wcnt := c, out := o, outCount := n } := by
  unfold State.writeBit
  split <;> exact ⟨_, _, _, _, rfl⟩

@[simp] theorem State.writeBits_nil : s.writeBits [] = s := rfl

@[simp] theorem State.writeBits_cons (b : Bool) (v : Bits) :
    s.writeBits (b :: v) = (s.writeBit b).writeBits v := rfl

theorem State.writeBits_append (u v : Bits) :
    s.writeBits (u ++ v) = (s.writeBits u).writeBits v := by
  induction u generalizing s with
  | nil => rfl
  | cons b u ih => exact ih _

/-- A run of `WriteBit`s writes WBUF, WCNT, OUT and OUT_COUNT only. -/
theorem State.writeBits_frame (v : Bits) : ∃ w c o n,
    s.writeBits v = { s with wbuf := w, wcnt := c, out := o, outCount := n } := by
  induction v generalizing s with
  | nil => exact ⟨_, _, _, _, rfl⟩
  | cons b v ih =>
    obtain ⟨w, c, o, n, h⟩ := s.writeBit_frame b
    obtain ⟨w', c', o', n', h'⟩ := ih (s.writeBit b)
    exact ⟨w', c', o', n', by rw [State.writeBits_cons, h', h]⟩

/-- The flush writes WBUF, WCNT, WST, OUT and OUT_COUNT only. -/
theorem State.flush_frame : ∃ o n,
    s.flush = { s with wbuf := 0, wcnt := 0, wst := .done, out := o, outCount := n } := by
  unfold State.flush
  split <;> exact ⟨_, _, rfl⟩

/-! ### The unpacker -/

/-- The refill writes RBUF, RCNT, INQ and IN_COUNT only. -/
theorem State.fetchBit_frame : ∃ v c q n,
    s.fetchBit = { s with rbuf := v, rcnt := c, inq := q, inCount := n } := by
  unfold State.fetchBit State.refill
  split
  · split <;> exact ⟨_, _, _, _, rfl⟩
  · exact ⟨_, _, _, _, rfl⟩

/-- `ReadBit` writes RBUF, RCNT, INQ and IN_COUNT only. -/
theorem State.readBit_frame : ∃ v c q n,
    s.readBit.2 = { s with rbuf := v, rcnt := c, inq := q, inCount := n } := by
  obtain ⟨v, c, q, n, h⟩ := s.fetchBit_frame
  exact ⟨v, c - 1, q, n, by simp [State.readBit, h]⟩

/-- A run of `ReadBit`s writes RBUF, RCNT, INQ and IN_COUNT only. -/
theorem State.readInto_frame (k : Nat) (b : Byte) : ∃ v c q n,
    (s.readInto k b).2 = { s with rbuf := v, rcnt := c, inq := q, inCount := n } := by
  induction k generalizing s b with
  | zero => exact ⟨_, _, _, _, rfl⟩
  | succ k ih =>
    obtain ⟨v, c, q, n, h⟩ := s.readBit_frame
    obtain ⟨v', c', q', n', h'⟩ := ih s.readBit.2 (shiftIn b s.readBit.1)
    exact ⟨v', c', q', n', by rw [State.readInto, h', h]⟩

/-- A bit is available iff AvailBits is not 0 (10_state.md R43). -/
theorem State.bitAvail_iff : s.bitAvail = true ↔ 0 < s.availBits := by
  cases h : s.inq <;> simp [State.bitAvail, State.availBits, h]

/-! ### DEC -/

/-- Everything the end of input can do (43_decoder.md R179). -/
theorem State.endOfInput_cases :
    s.endOfInput = { s with dst := .done, result := ⟨true, 0⟩ } ∨
      s.endOfInput = s.raise .trunc .dec (BitVec.ofNat 16 s.cwBits) := by
  unfold State.endOfInput
  split
  · exact .inl rfl
  · exact .inr rfl

end Sys2Proof.Machine
end

