-- ==== Sys2Proof/Laws/Exec.lean ====
section
/-! SUPPORT. Everything a command and a step of DEC can do, said once: proofs about every command or every
DEC step start here and never unfold exec. -/

namespace Sys2Proof.Machine

/-- What a command does to the state in which its word has been taken, when CMD runs it. -/
def commandBody : Instr → State → State
  | .nop, t => t
  | .srst, t => t.hbsaReset
  | .setctrl c, t => { t with ctrl := c }
  | .bsqClr sel, t => t.setSeq sel []
  | .bsqPush sel b, t =>
    if (t.seq sel).length = Config.seqCap then t.raise .seqOvf .cmd (encode (.bsqPush sel b))
    else t.setSeq sel (t.seq sel ++ [b])
  | .bsqPop sel, t =>
    match (t.seq sel).getLast? with
    | none => t.raise .seqUnf .cmd (encode (.bsqPop sel))
    | some v => (t.setSeq sel (t.seq sel).dropLast).setData (bitByte v)
  | .bsqGet sel idx, t =>
    match (t.seq sel)[idx]? with
    | none => t.raise .seqIdx .cmd (encode (.bsqGet sel idx))
    | some v => t.setData (bitByte v)
  | .bsqCopy sel, t => t.setSeq sel.other (t.seq sel)
  | .bsqEmit sel, t =>
    if t.wst = .streaming then t.writeBits (t.seq sel)
    else t.raise .wrDone .cmd (encode (.bsqEmit sel))
  | .wrBit b, t =>
    if t.wst = .streaming then t.writeBit b else t.raise .wrDone .cmd (encode (.wrBit b))
  | .wrByte v, t =>
    if t.wst = .streaming then t.writeBits (byteBits v) else t.raise .wrDone .cmd (encode (.wrByte v))
  | .wrFlush, t => if t.wst = .streaming then t.flush else t.raise .wrDone .cmd (encode .wrFlush)
  | .rdBit, t =>
    if t.bitAvail then t.readBit.2.setData (bitByte t.readBit.1) else t.setEos
  | .rdByte, t =>
    if 8 ≤ t.availBits then (t.readInto 8 0#8).2.setData (t.readInto 8 0#8).1
    else if t.availBits = 0 then t.setEos
    else { t with rcnt := 0 }.raise .trunc .cmd (encode .rdByte)
  | .decSym, t =>
    match t.dst with
    | .idle => t.startWalk
    | .done => t.setEos
    | .walk => t
    | .lit => t
    | .wait => t
    | .err => t

/-- When a command is enabled (42_reader.md R152, R153); every other command always is. -/
def commandEnabled : Instr → State → Bool
  | .rdBit, s => s.bitAvail || s.rdEos
  | .rdByte, s => decide (8 ≤ s.availBits) || s.inEnd
  | _, _ => true

/-- Every command but SRST is CMD's step with its body; none faults and none is refused. -/
theorem exec_eq {i : Instr} (hi : i ≠ .srst) (s : State) :
    exec i s = .next (s.issue (commandEnabled i s) (commandBody i)) := by
  cases i <;> first | rfl | exact absurd rfl hi

/-- SRST runs in every state (44_system.md R211). -/
theorem exec_srst (s : State) : exec .srst s = .next s.takeWord.hbsaReset := rfl

/-- A command that CMD runs: its word is taken and its body follows. -/
theorem exec_runs {i : Instr} {s : State} (h : s.Runs) (he : commandEnabled i s = true) :
    exec i s = .next (commandBody i s.takeWord) := by
  by_cases hi : i = .srst
  · subst hi; rfl
  · rw [exec_eq hi, State.issue_runs h he]

/-- Everything a command can do: hold, be discarded, reset, or run. -/
theorem exec_cases {i : Instr} {s t : State} (h : exec i s = .next t) :
    (t = s ∧ (s.busy = true ∨ commandEnabled i s = false)) ∨
      (s.err = true ∧ i ≠ .srst ∧ t = s.takeWord) ∨
      (i = .srst ∧ t = s.takeWord.hbsaReset) ∨
      (s.Runs ∧ i ≠ .srst ∧ commandEnabled i s = true ∧ t = commandBody i s.takeWord) := by
  by_cases hi : i = .srst
  · subst hi
    exact .inr (.inr (.inl ⟨rfl, by simpa [exec_srst] using h.symm⟩))
  · rw [exec_eq hi, Host.Outcome.next.injEq] at h
    subst h
    simp only [State.issue, State.Runs]
    cases s.busy <;> cases s.err <;> cases commandEnabled i s <;> simp [hi]

/-- Every command completes in every state: it never faults and is never refused. -/
theorem exec_completes (i : Instr) (s : State) : ∃ t, exec i s = .next t := by
  cases i <;> exact ⟨_, rfl⟩

/-- DEC's turn always answers a next state. -/
theorem decTurn_completes (s : State) : ∃ t, decTurn s = .next t := by
  unfold decTurn
  cases s.dst <;> exact ⟨_, rfl⟩

/-- Everything a step of DEC can do (43_decoder.md R173 to R179). -/
theorem decTurn_cases {s t : State} (h : decTurn s = .next t) :
    (s.decEnabled = false ∧ t = s) ∨
      (s.dst = .walk ∧ t = s.raiseTree) ∨
      (s.dst = .walk ∧ t = { s with dst := .lit }) ∨
      (s.dst = .walk ∧ ∃ v, t = s.deliver v false) ∨
      ((s.dst = .walk ∨ s.dst = .lit) ∧ s.bitAvail = false ∧ s.rdEos = true ∧ t = s.endOfInput) ∨
      (s.dst = .walk ∧ s.depth ≠ Config.walkMax ∧ s.bitAvail = true ∧
        ∃ n, t = { s.readBit.2.countBit s.readBit.1 with node := n, depth := s.depth + 1 }) ∨
      (s.dst = .lit ∧ s.bitAvail = true ∧ t = s.readBit.2.litBit s.readBit.1) := by
  unfold decTurn at h
  split at h
  · rename_i hd
    injection h with h
    unfold State.walkOn State.descend at h
    split at h
    · exact .inr (.inl ⟨hd, h.symm⟩)
    · exact .inr (.inr (.inl ⟨hd, h.symm⟩))
    · split at h
      · exact .inr (.inl ⟨hd, h.symm⟩)
      · exact .inr (.inr (.inr (.inl ⟨hd, _, h.symm⟩)))
    · split at h
      · exact .inr (.inl ⟨hd, h.symm⟩)
      · split at h
        · rename_i hm hb
          exact .inr (.inr (.inr (.inr (.inr (.inl ⟨hd, hm, hb, _, h.symm⟩)))))
        · split at h
          · rename_i hb he
            exact .inr (.inr (.inr (.inr (.inl ⟨.inl hd, by simpa using hb, he, h.symm⟩))))
          · rename_i hc hm hb he
            refine .inl ⟨?_, h.symm⟩
            simp only [Bool.not_eq_true] at hb he
            simp [State.decEnabled, hd, hc, State.readerAnswers, hm, hb, he]
  · rename_i hd
    injection h with h
    unfold State.litStep at h
    split at h
    · rename_i hb
      exact .inr (.inr (.inr (.inr (.inr (.inr ⟨hd, hb, h.symm⟩)))))
    · split at h
      · rename_i hb he
        exact .inr (.inr (.inr (.inr (.inl ⟨.inr hd, by simpa using hb, he, h.symm⟩))))
      · rename_i hb he
        refine .inl ⟨?_, h.symm⟩
        simp only [Bool.not_eq_true] at hb he
        simp [State.decEnabled, hd, State.readerAnswers, hb, he]
  all_goals
    rename_i hd
    injection h with h
    exact .inl ⟨by simp [State.decEnabled, hd], h.symm⟩

/-- A literal bit's step either waits for more or delivers the literal (43_decoder.md R177, R178). -/
theorem State.litBit_cases (s : State) (b : Bool) :
    (s.litCnt + 1 ≠ Config.litW ∧
      s.litBit b = { s.countBit b with lit := shiftIn s.lit b, litCnt := s.litCnt + 1 }) ∨
    (s.litCnt + 1 = Config.litW ∧
      s.litBit b =
        { s.countBit b with lit := shiftIn s.lit b, litCnt := s.litCnt + 1 }.deliver (shiftIn s.lit b) true) := by
  by_cases h : s.litCnt + 1 = Config.litW
  · exact .inr ⟨h, by simp [State.litBit, h]⟩
  · exact .inl ⟨h, by simp [State.litBit, h]⟩

/-- Everything one step of the system can do: a listed turn, or HBSA's own agents. -/
theorem step_cases {s t : State} (h : step s = .next t) :
    (s.sched = [] ∧ ∃ n, cmdTurn { s with freeUsed := n } = .next t) ∨
      (s.sched = [] ∧ ∃ n, decTurn { s with freeUsed := n } = .next t) ∨
      ∃ m ts, s.sched = m :: ts ∧ takeTurn m { s with sched := ts } = .next t := by
  unfold step nextTurn autoTurn at h
  split at h
  · rename_i hs
    split at h
    · split at h
      · split at h
        · exact .inl ⟨hs, _, h⟩
        · exact .inr (.inl ⟨hs, _, h⟩)
      · exact .inr (.inl ⟨hs, s.freeUsed, h⟩)
    · exact .inl ⟨hs, s.freeUsed, h⟩
  · rename_i m ts hs
    exact .inr (.inr ⟨m, ts, hs, h⟩)

/-- An issued word goes to the tail of the port, but for SRST while DEC is busy (10_state.md R21). -/
theorem State.enqueue_tail {s : State} {w : Word} (h : s.busy = false ∨ w ≠ 0x0800#16) :
    s.enqueue w = { s with cmdq := s.cmdq ++ [w] } := by
  rcases h with h | h <;> simp [State.enqueue, h]

/-- SRST issued while DEC is busy comes to the head of the port (70_reset_and_hazards.md R271). -/
theorem State.enqueue_srst {s : State} (h : s.busy = true) :
    s.enqueue 0x0800#16 = { s with cmdq := 0x0800#16 :: s.cmdq } := by
  simp [State.enqueue, h]

/-- CMD's turn always answers a next state. -/
theorem cmdTurn_completes (s : State) : ∃ t, cmdTurn s = .next t := by
  unfold cmdTurn
  split
  · exact ⟨_, rfl⟩
  · split
    · exact exec_completes _ _
    · exact ⟨_, rfl⟩

/-- Every step answers a next state: nothing stops the machine (70_reset_and_hazards.md R275). -/
theorem step_completes (s : State) : ∃ t, step s = .next t := by
  unfold step nextTurn autoTurn
  split
  · split
    · split
      · split
        · exact cmdTurn_completes _
        · exact decTurn_completes _
      · exact decTurn_completes _
    · exact cmdTurn_completes _
  · rename_i m ts _
    cases m with
    | cmd => exact cmdTurn_completes _
    | dec => exact decTurn_completes _
    | host m => exact ⟨_, rfl⟩
    | ins m => exact ⟨_, rfl⟩
    | powerOn => exact ⟨_, rfl⟩

/-- Everything CMD's turn can do: nothing, an illegal word, or the decoded command. -/
theorem cmdTurn_cases {s t : State} (h : cmdTurn s = .next t) :
    (s.cmdq = [] ∧ t = s) ∨
      (∃ w ws e, s.cmdq = w :: ws ∧ decode w = .error e ∧ t = s.illegal w) ∨
      ∃ w ws i, s.cmdq = w :: ws ∧ decode w = .ok i ∧ exec i s = .next t := by
  unfold cmdTurn at h
  split at h
  · rename_i hq
    injection h with h
    exact .inl ⟨hq, h.symm⟩
  · rename_i w ws hq
    split at h
    · rename_i i hi
      exact .inr (.inr ⟨w, ws, i, hq, hi, h⟩)
    · rename_i e he
      injection h with h
      exact .inr (.inl ⟨w, ws, e, hq, he, h.symm⟩)

end Sys2Proof.Machine
end

