-- ==== Sys2Proof/Laws/Memory.lean ====
section
/-! SUPPORT. The tree space: the canonical form is kept by every operation, and what a read gives. -/

namespace Sys2Proof.Machine

theorem Memory.wf_iff (m : Memory) :
    m.wf = true ↔ (m.Pairwise fun a b => a.1 < b.1) ∧ ∀ e ∈ m, e.1 < 1024 := by
  simp [Memory.wf]

/-- The keys of an insertion are the old ones and the new one. -/
theorem Memory.mem_insert {m : Memory} {k : Nat} {w : NodeWord} {e : Nat × NodeWord}
    (h : e ∈ m.insert k w) : e = (k, w) ∨ e ∈ m := by
  induction m with
  | nil => simpa [Memory.insert] using h
  | cons p m ih =>
    obtain ⟨a, v⟩ := p
    simp only [Memory.insert] at h
    split at h
    · simpa using h
    · split at h
      · rcases List.mem_cons.1 h with h | h
        · exact .inl h
        · exact .inr (List.mem_cons_of_mem _ h)
      · rcases List.mem_cons.1 h with h | h
        · exact .inr (h ▸ List.mem_cons_self)
        · exact (ih h).imp_right (List.mem_cons_of_mem _)

/-- An insertion keeps the keys rising. -/
theorem Memory.insert_rising {m : Memory} (k : Nat) (w : NodeWord)
    (hm : m.Pairwise fun a b => a.1 < b.1) : (m.insert k w).Pairwise fun a b => a.1 < b.1 := by
  induction m with
  | nil => simp [Memory.insert]
  | cons p m ih =>
    obtain ⟨a, v⟩ := p
    obtain ⟨h1, h2⟩ := List.pairwise_cons.1 hm
    simp only [Memory.insert]
    split
    · rename_i hlt
      refine List.pairwise_cons.2 ⟨fun e he => ?_, hm⟩
      rcases List.mem_cons.1 he with rfl | he
      · exact hlt
      · exact lt_trans hlt (h1 e he)
    · split
      · rename_i heq
        exact List.pairwise_cons.2 ⟨fun e he => heq ▸ h1 e he, h2⟩
      · rename_i hlt hne
        refine List.pairwise_cons.2 ⟨fun e he => ?_, ih h2⟩
        rcases Memory.mem_insert he with rfl | he
        · exact lt_of_le_of_ne (not_lt.1 hlt) (Ne.symm hne)
        · exact h1 e he

/-- INS's write keeps the canonical form. -/
theorem Memory.wf_write {m : Memory} (hm : m.wf = true) (h : Handle) (w : NodeWord) :
    (m.write h w).wf = true := by
  obtain ⟨h1, h2⟩ := (Memory.wf_iff m).1 hm
  refine (Memory.wf_iff _).2 ⟨Memory.insert_rising _ _ h1, fun e he => ?_⟩
  rcases Memory.mem_insert he with rfl | he
  · exact h.isLt
  · exact h2 e he

/-- The memory of the state after reset has the canonical form. -/
theorem Memory.wf_reset : State.reset.tree.wf = true := by decide

/-- What an insertion holds at the key written. -/
theorem Memory.lookup_insert_same (m : Memory) (k : Nat) (w : NodeWord) :
    (m.insert k w).lookup k = some w := by
  induction m with
  | nil => simp [Memory.insert, Memory.lookup]
  | cons p m ih =>
    obtain ⟨a, v⟩ := p
    simp only [Memory.insert]
    split
    · simp [Memory.lookup]
    · split
      · simp [Memory.lookup]
      · rename_i hne
        simpa [Memory.lookup, Ne.symm hne] using ih

/-- What an insertion holds at every other key. -/
theorem Memory.lookup_insert_other (m : Memory) {k j : Nat} (w : NodeWord) (hj : j ≠ k) :
    (m.insert k w).lookup j = m.lookup j := by
  induction m with
  | nil => simp [Memory.insert, Memory.lookup, Ne.symm hj]
  | cons p m ih =>
    obtain ⟨a, v⟩ := p
    simp only [Memory.insert]
    split
    · simp [Memory.lookup, Ne.symm hj]
    · split
      · rename_i heq
        subst heq
        simp [Memory.lookup, Ne.symm hj]
      · simp only [Memory.lookup, ih]

/-- A tree word reads as INS last wrote it. -/
@[simp] theorem Memory.read_write_same (m : Memory) (h : Handle) (w : NodeWord) :
    (m.write h w).read h = w := by
  simp [Memory.read, Memory.write, Memory.lookup_insert_same]

/-- INS's write leaves every other handle as it was. -/
theorem Memory.read_write_other (m : Memory) {h k : Handle} (w : NodeWord) (hk : k ≠ h) :
    (m.write h w).read k = m.read k := by
  have : k.toNat ≠ h.toNat := fun e => hk (BitVec.eq_of_toNat_eq e)
  simp [Memory.read, Memory.write, Memory.lookup_insert_other m w this]

/-- A handle INS never wrote reads as its free word (log 5). -/
theorem Memory.read_unwritten {m : Memory} {h : Handle} (hm : m.written h = false) :
    m.read h = Config.freeNode h := by
  have : m.lookup h.toNat = none := by simpa [Memory.written] using hm
  simp [Memory.read, this]

/-- INS's write marks its handle as written and no other one. -/
theorem Memory.written_write (m : Memory) (h k : Handle) (w : NodeWord) :
    (m.write h w).written k = (decide (k = h) || m.written k) := by
  by_cases hk : k = h
  · subst hk
    simp [Memory.written, Memory.write, Memory.lookup_insert_same]
  · have : k.toNat ≠ h.toNat := fun e => hk (BitVec.eq_of_toNat_eq e)
    simp [Memory.written, Memory.write, Memory.lookup_insert_other m w this, hk]

end Sys2Proof.Machine
end

