-- ==== Sys2Proof/Laws/PerInstr.lean ====
section
/-! SUPPORT. Per-instruction statements about the syntax: each command's word selects a row of the
opcode table that builds the command back (30_encoding.md R84). -/

namespace Sys2Proof.Laws.SelectsRow

/-- The encoding of a well-formed command selects a row of R84's table, and that row builds the command. -/
def Statement (i : Instr) : Prop :=
  i.wellFormed = true → ∃ r ∈ opcodeTable, rowMatches (encode i) r = true ∧ r.build (encode i) = i

theorem nop : Statement .nop := fun _ => ⟨_, List.mem_of_getElem? (i := 0) rfl, by decide, rfl⟩

theorem srst : Statement .srst := fun _ => ⟨_, List.mem_of_getElem? (i := 1) rfl, by decide, rfl⟩

theorem setctrl (ctrl3 : BitVec 3) : Statement (.setctrl ctrl3) := fun _ =>
  ⟨_, List.mem_of_getElem? (i := 2) rfl, by revert ctrl3; decide, by revert ctrl3; decide⟩

theorem bsqClr (s : Sel) : Statement (.bsqClr s) := fun _ =>
  ⟨_, List.mem_of_getElem? (i := 3) rfl, by cases s <;> decide, by cases s <;> decide⟩

theorem bsqPush (s : Sel) (b : Bool) : Statement (.bsqPush s b) := fun _ =>
  ⟨_, List.mem_of_getElem? (i := 4) rfl, by cases s <;> cases b <;> decide, by cases s <;> cases b <;> decide⟩

theorem bsqPop (s : Sel) : Statement (.bsqPop s) := fun _ =>
  ⟨_, List.mem_of_getElem? (i := 5) rfl, by cases s <;> decide, by cases s <;> decide⟩

/-- The index field of a BSQ_GET word holds any index below 512. -/
theorem bsqGet_word (s : Sel) : ∀ v : BitVec 9,
    rowMatches (encode (.bsqGet s v.toNat)) ⟨0xFA00#16, 0x3800#16, fun w => .bsqGet (selOf w) (idxOf w)⟩ = true ∧
      Instr.bsqGet (selOf (encode (.bsqGet s v.toNat))) (idxOf (encode (.bsqGet s v.toNat))) =
        .bsqGet s v.toNat := by
  cases s <;> decide +kernel

theorem bsqGet (s : Sel) (idx : Nat) : Statement (.bsqGet s idx) := fun h => by
  have hi : idx < 512 := by simpa [Instr.wellFormed] using h
  have hv : (BitVec.ofNat 9 idx).toNat = idx := by simp; omega
  have := bsqGet_word s (BitVec.ofNat 9 idx)
  rw [hv] at this
  exact ⟨_, List.mem_of_getElem? (i := 6) rfl, this.1, this.2⟩

theorem bsqCopy (s : Sel) : Statement (.bsqCopy s) := fun _ =>
  ⟨_, List.mem_of_getElem? (i := 7) rfl, by cases s <;> decide, by cases s <;> decide⟩

theorem bsqEmit (s : Sel) : Statement (.bsqEmit s) := fun _ =>
  ⟨_, List.mem_of_getElem? (i := 8) rfl, by cases s <;> decide, by cases s <;> decide⟩

theorem wrBit (b : Bool) : Statement (.wrBit b) := fun _ =>
  ⟨_, List.mem_of_getElem? (i := 9) rfl, by cases b <;> decide, by cases b <;> decide⟩

theorem wrByte (imm8 : Byte) : Statement (.wrByte imm8) := fun _ =>
  ⟨_, List.mem_of_getElem? (i := 10) rfl, by revert imm8; decide +kernel, by revert imm8; decide +kernel⟩

theorem wrFlush : Statement .wrFlush := fun _ => ⟨_, List.mem_of_getElem? (i := 11) rfl, by decide, rfl⟩

theorem rdBit : Statement .rdBit := fun _ => ⟨_, List.mem_of_getElem? (i := 12) rfl, by decide, rfl⟩

theorem rdByte : Statement .rdByte := fun _ => ⟨_, List.mem_of_getElem? (i := 13) rfl, by decide, rfl⟩

theorem decSym : Statement .decSym := fun _ => ⟨_, List.mem_of_getElem? (i := 14) rfl, by decide, rfl⟩

end Sys2Proof.Laws.SelectsRow
end

