-- ==== Sys2Proof/Machine/Asm.lean ====
section
/-! DEFINITION. The assembler of spec/30_encoding.md R87 and the pseudo-instructions of R88. It stands
beside the machine: no step uses it. A line is a list of characters; what R87 leaves open of the
spelling is log 21. -/

namespace Sys2Proof.Machine

/-- A space, a tab or a carriage return. -/
def asmBlank (c : Char) : Bool := c == ' ' || c == '\t' || c == '\r'

/-- Without blanks at either end. -/
def asmTrim (cs : List Char) : List Char :=
  ((cs.dropWhile asmBlank).reverse.dropWhile asmBlank).reverse

/-- The pieces between separators. -/
def asmSplit (sep : Char) : List Char → List (List Char)
  | [] => [[]]
  | c :: cs =>
    if c == sep then [] :: asmSplit sep cs
    else
      match asmSplit sep cs with
      | [] => [[c]]
      | p :: ps => (c :: p) :: ps

/-- "A `;` starts a comment" (R87). -/
def asmStrip (cs : List Char) : List Char := asmTrim (cs.takeWhile fun c => c != ';')

/-- A digit's value in base 16. -/
def asmDigit (c : Char) : Option Nat :=
  if '0' ≤ c ∧ c ≤ '9' then some (c.toNat - 48)
  else if 'a' ≤ c ∧ c ≤ 'f' then some (c.toNat - 87)
  else if 'A' ≤ c ∧ c ≤ 'F' then some (c.toNat - 55)
  else none

/-- The digits' value in a base, the most significant first; none where a character is no digit. -/
def asmDigits (base : Nat) : List Char → Nat → Option Nat
  | [], v => some v
  | c :: cs, v =>
    match asmDigit c with
    | some d => if d < base then asmDigits base cs (v * base + d) else none
    | none => none

/-- "An immediate or index is a decimal or `0x` hexadecimal number" (R87). -/
def asmNumber : List Char → Option Nat
  | [] => none
  | ['0', 'x'] => none
  | '0' :: 'x' :: cs => asmDigits 16 cs 0
  | cs => asmDigits 10 cs 0

/-- A number that fits its field; "An assembler refuses an operand that does not fit" (R87). -/
def asmBelow (bound : Nat) (cs : List Char) : Option Nat :=
  match asmNumber cs with
  | some n => if n < bound then some n else none
  | none => none

/-- "A sequence operand is written `s0` or `s1`" (R87). -/
def asmSel : List Char → Option Sel
  | ['s', '0'] => some .seq0
  | ['s', '1'] => some .seq1
  | _ => none

/-- "A bit operand is written `0` or `1`" (R87). -/
def asmBit : List Char → Option Bool
  | ['0'] => some false
  | ['1'] => some true
  | _ => none

/-- The bits inside quotes, the leftmost first (00_scope.md R9); blanks between them are skipped. -/
def asmBitChars : List Char → Option Bits
  | [] => some []
  | c :: cs =>
    if asmBlank c then asmBitChars cs
    else if c == '0' then (asmBitChars cs).map (false :: ·)
    else if c == '1' then (asmBitChars cs).map (true :: ·)
    else none

/-- The character that opens and closes a quoted bit string. -/
def asmQuote : Char := Char.ofNat 34

/-- A quoted bit string (R88, 00_scope.md R9). -/
def asmBits (cs : List Char) : Option Bits :=
  match cs with
  | [] => none
  | c :: rest =>
    if c == asmQuote && rest.getLast? == some asmQuote then asmBitChars rest.dropLast else none

/-- A mnemonic with no operand. -/
def asmNullary : List (String × Instr) :=
  [("NOP", .nop), ("SRST", .srst), ("WR_FLUSH", .wrFlush), ("RD_BIT", .rdBit), ("RD_BYTE", .rdByte),
   ("DEC_SYM", .decSym)]

/-- A mnemonic whose one operand is a sequence. -/
def asmUnarySel : List (String × (Sel → Instr)) :=
  [("BSQ_CLR", .bsqClr), ("BSQ_POP", .bsqPop), ("BSQ_COPY", .bsqCopy), ("BSQ_EMIT", .bsqEmit)]

/-- The entry of a mnemonic. -/
def asmFind {α : Type} : List (String × α) → List Char → Option α
  | [], _ => none
  | (k, v) :: rest, m => if k.toList == m then some v else asmFind rest m

/-- `ENC_NEW sN, imm8`: BSQ_EMIT, then WR_BYTE (R88). -/
def encNew (s : Sel) (imm8 : Byte) : List Instr := [.bsqEmit s, .wrByte imm8]

/-- `ENC_KNOWN sN`: BSQ_EMIT (R88). -/
def encKnown (s : Sel) : List Instr := [.bsqEmit s]

/-- `BSQ_SET sN, bits`: BSQ_CLR, then one BSQ_PUSH a bit (R88). -/
def bsqSet (s : Sel) (v : Bits) : List Instr := .bsqClr s :: v.map (.bsqPush s)

/-- `WR_BITS bits`: one WR_BIT a bit (R88). -/
def wrBits (v : Bits) : List Instr := v.map .wrBit

/-- A command or pseudo-instruction with one operand. -/
def asmOne (m a : List Char) : Option (List Instr) :=
  if m == "SETCTRL".toList then (asmBelow 8 a).map fun n => [.setctrl (BitVec.ofNat 3 n)]
  else if m == "WR_BIT".toList then (asmBit a).map fun b => [.wrBit b]
  else if m == "WR_BYTE".toList then (asmBelow 256 a).map fun n => [.wrByte (BitVec.ofNat 8 n)]
  else if m == "WR_BITS".toList then (asmBits a).map wrBits
  else if m == "ENC_KNOWN".toList then (asmSel a).map encKnown
  else
    match asmFind asmUnarySel m, asmSel a with
    | some mk, some s => some [mk s]
    | _, _ => none

/-- A command or pseudo-instruction with a sequence operand and one more. -/
def asmTwo (m a b : List Char) : Option (List Instr) :=
  match asmSel a with
  | none => none
  | some s =>
    if m == "BSQ_PUSH".toList then (asmBit b).map fun v => [.bsqPush s v]
    else if m == "BSQ_GET".toList then (asmBelow 512 b).map fun n => [.bsqGet s n]
    else if m == "ENC_NEW".toList then (asmBelow 256 b).map fun n => encNew s (BitVec.ofNat 8 n)
    else if m == "BSQ_SET".toList then (asmBits b).map (bsqSet s)
    else none

/-- One line: its commands in order, none where the assembler refuses it. An empty line and a comment
give no command. -/
def asmLine (line : List Char) : Option (List Instr) :=
  let cs := asmStrip line
  let m := cs.takeWhile fun c => !asmBlank c
  let rest := asmTrim (cs.drop m.length)
  if cs.isEmpty then some []
  else if rest.isEmpty then (asmFind asmNullary m).map fun i => [i]
  else
    match (asmSplit ',' rest).map asmTrim with
    | [a] => asmOne m a
    | [a, b] => asmTwo m a b
    | _ => none

/-- All lines, in order. -/
def asmLines : List (List Char) → Option (List Instr)
  | [] => some []
  | l :: ls =>
    match asmLine l, asmLines ls with
    | some is, some rest => some (is ++ rest)
    | _, _ => none

/-- A source text's command words, "One command per line" (R87). -/
def assemble (src : List Char) : Option (List Word) :=
  (asmLines (asmSplit '\n' src)).map fun is => is.map encode

end Sys2Proof.Machine
end

