-- ==== Sys2Proof/Tests/Slice0.lean ====
section
/-! SUPPORT. Tests and witnesses. Every expected result is taken from spec/95_test_vectors.md (E, Q, W, B,
D, X and program rows, named in the comments), from the examples of the rules, or worked out by hand from
them. A `witness_` theorem shows a state and operands that meet all the hypotheses of the obligation it
names, one theorem a clause. -/

namespace Sys2Proof.Tests
open Sys2Proof Sys2Proof.Machine

/-! ## Helpers -/

/-- The outcome is a next state with the property. -/
def nextHas (o : Host.Outcome State Fault Refusal) (p : State → Bool) : Bool :=
  match o with
  | .next t => p t
  | .fault _ => false
  | .refused _ => false

/-- Fixture F1 of 95_test_vectors.md: root 0, NYT leaf 1, symbol leaf 2 for 0x41. -/
def f1 : Memory := [(0, 0x00200400#32), (1, 0x00000003#32), (2, 0x00000105#32)]

/-- Reset, with DEC in WALK at the root of a tree and an input queue. -/
def walking (tree : Memory) (inq : List Byte) (inEnd : Bool) : State :=
  { State.reset with dst := .walk, tree := tree, inq := inq, inEnd := inEnd }

/-- Reset, with DEC in LIT after `n` zero literal bits. -/
def literal (n : Nat) (inq : List Byte) (inEnd : Bool) : State :=
  { State.reset with dst := .lit, litCnt := n, cwBits := n, inq := inq, inEnd := inEnd }

/-- The error state of vector X5: E_SEQ_UNF from word 0x3000. -/
def failed : State :=
  { State.reset with
    err := true, errCode := .seqUnf, errSrc := .cmd, errInfo := 0x3000#16, dst := .err }

/-- Reset, with the unpacker holding RCNT bits of RBUF. -/
def reading (rbuf : Byte) (rcnt : Nat) (inq : List Byte) (inEnd : Bool) : State :=
  { State.reset with rbuf := rbuf, rcnt := rcnt, inq := inq, inEnd := inEnd }

/-- Reset, with the packer holding WCNT bits of WBUF. -/
def packing (wbuf : Byte) (wcnt : Nat) : State := { State.reset with wbuf := wbuf, wcnt := wcnt }

/-- Reset, after the flush. -/
def flushed : State := { State.reset with wst := .done }

/-! ## Well-formedness -/

/-- 30_encoding.md R87: an assembler refuses "an `idx` above 511". -/
theorem test_wellFormed_refuses_index_512 : (Instr.bsqGet .seq0 512).wellFormed = false := by decide

theorem test_wellFormed_index_511 : (Instr.bsqGet .seq1 511).wellFormed = true := by decide

/-! ## Decoding: the words of 30_encoding.md R87, R89 and of E1 to E21 -/

theorem test_decode_nop : decode 0b0000000000000000#16 = .ok .nop := by decide
theorem test_decode_srst : decode 0b0000100000000000#16 = .ok .srst := by decide
theorem test_decode_setctrl : decode 0b0001000000000111#16 = .ok (.setctrl 7#3) := by decide
theorem test_decode_bsqClr : decode 0b0010010000000000#16 = .ok (.bsqClr .seq1) := by decide
theorem test_decode_bsqPush : decode 0b0010100000000001#16 = .ok (.bsqPush .seq0 true) := by decide
theorem test_decode_bsqPush_zero : decode 0x2C00#16 = .ok (.bsqPush .seq1 false) := by decide
theorem test_decode_bsqPop : decode 0b0011010000000000#16 = .ok (.bsqPop .seq1) := by decide
theorem test_decode_bsqGet : decode 0b0011110000000101#16 = .ok (.bsqGet .seq1 5) := by decide
theorem test_decode_bsqGet_511 : decode 0x39FF#16 = .ok (.bsqGet .seq0 511) := by decide
theorem test_decode_bsqCopy : decode 0b0100010000000000#16 = .ok (.bsqCopy .seq1) := by decide
theorem test_decode_bsqEmit : decode 0b0100110000000000#16 = .ok (.bsqEmit .seq1) := by decide
theorem test_decode_wrBit : decode 0b0110000000000001#16 = .ok (.wrBit true) := by decide
theorem test_decode_wrByte : decode 0b0110100001000001#16 = .ok (.wrByte 0x41#8) := by decide
theorem test_decode_wrFlush : decode 0b0111000000000000#16 = .ok .wrFlush := by decide
theorem test_decode_rdBit : decode 0b1000000000000000#16 = .ok .rdBit := by decide
theorem test_decode_rdByte : decode 0b1000100000000000#16 = .ok .rdByte := by decide
theorem test_decode_decSym : decode 0b1010000000000000#16 = .ok .decSym := by decide

/-- E8, E12, E14, E17, E20 and R89's 0x0001 and 0x1008: a reserved bit is 1. -/
theorem test_decode_reserved_bits :
    [0x3A00#16, 0x6002#16, 0x6900#16, 0x8001#16, 0x2001#16, 0x0001#16, 0x1008#16].map decode =
      List.replicate 7 (.error .reservedBit) := by decide

/-- E19 and E21: a reserved OPC. -/
theorem test_decode_reserved_opcodes :
    [0x1800#16, 0x5000#16, 0x5800#16, 0x7800#16, 0x9000#16, 0x9800#16, 0xA800#16, 0xF800#16, 0xFFFF#16].map
      decode = List.replicate 9 (.error .reservedOpcode) := by decide

/-- R89's worked encodings. -/
theorem test_encode_worked :
    encode (.bsqPush .seq1 false) = 0x2C00#16 ∧ encode (.bsqGet .seq0 255) = 0x38FF#16 ∧
    encode (.wrByte 0x00#8) = 0x6800#16 := by decide

theorem test_decodeTableWord : decodeTableWord 16 0x6841 = some (.wrByte 0x41#8) := by decide
theorem test_decodeTableWord_illegal : decodeTableWord 16 0x6900 = none := by decide

/-- The word placed for the host is the one the next step runs. -/
theorem test_withFetchWord :
    nextHas (step (State.reset.withFetchWord 16 0x2801)) (fun t => t.seq0 == [true]) = true := by decide

/-- R87's syntax, with a comment. -/
theorem test_assemble_line :
    assemble "BSQ_GET s1, 5 ; the fifth\nSETCTRL 0x7".toList = some [0x3C05#16, 0x1007#16] := by decide

/-- R88: `ENC_NEW s0, 0x41` and `ENC_KNOWN s1`. -/
theorem test_assemble_pseudo :
    assemble "ENC_NEW s0, 0x41\nENC_KNOWN s1".toList = some [0x4800#16, 0x6841#16, 0x4C00#16] := by decide

/-- R87: an operand that does not fit is refused. -/
theorem test_assemble_refuses : assemble "WR_BYTE 256".toList = none := by decide

/-- S11: SEQ0 = "0110" renders as 0110. -/
theorem test_render : render [false, true, true, false] = "0110" := by decide

/-! ## One step of each command -/

/-- X1. -/
theorem test_nop : nextHas (exec .nop State.reset) (fun t => t == { State.reset with cmdIndex := 1 }) = true := by
  decide

/-- D13: SRST is taken although DST is LIT. -/
theorem test_srst_while_busy :
    nextHas (exec .srst (literal 0 [] false)) (fun t => t.dst == .idle && t.cwZero) = true := by decide

/-- D13: SRST is taken although a NOP waits on the port, and the NOP still waits after it. -/
theorem test_srst_passes_waiting_word :
    nextHas (cmdTurn ({ literal 0 [] false with cmdq := [0x0000#16] }.hostMove (.issue 0x0800#16)))
      (fun t => t.dst == .idle && t.cmdq == [0x0000#16] && t.cmdIndex == 1) = true := by decide

/-- 44_system.md R211's example: the error record is cleared. -/
theorem test_srst_clears_error :
    nextHas (exec .srst failed) (fun t => !t.err && t.errCode == .none && t.errInfo == 0#16) = true := by decide

/-- X3: SETCTRL 4 with DST = DONE raises IRQ. -/
theorem test_setctrl :
    nextHas (exec (.setctrl 4#3) { State.reset with dst := .done }) (fun t => t.ctrl == 4#3 && t.irq) = true := by
  decide

/-- X5: SETCTRL is discarded with ERR = 1. -/
theorem test_setctrl_discarded :
    nextHas (exec (.setctrl 1#3) failed) (fun t => t.ctrl == 0#3 && t.errInfo == 0x3000#16) = true := by decide

/-- Q15. -/
theorem test_bsqClr :
    nextHas (exec (.bsqClr .seq1) { State.reset with seq0 := [true], seq1 := [true, false, true] })
      (fun t => t.seq1 == [] && t.seq0 == [true]) = true := by decide

/-- The example of 40_bitsequence.md R102: the new bit goes to the tail. -/
theorem test_bsqPush :
    nextHas (exec (.bsqPush .seq1 true) { State.reset with seq1 := [false] })
      (fun t => t.seq1 == [false, true]) = true := by decide

/-- Q3: the push at 256 bits. -/
theorem test_bsqPush_overflow :
    nextHas (exec (.bsqPush .seq0 false) { State.reset with seq0 := List.replicate 256 true })
      (fun t => t.seq0.length == 256 && t.regRead 0x1 == 0x28000002#32 && t.dst == .err) = true := by
  decide +kernel

/-- Q6. -/
theorem test_bsqPop :
    nextHas (exec (.bsqPop .seq0) { State.reset with seq0 := [true, false] })
      (fun t => t.seq0 == [true] && t.regRead 0x2 == 0#32) = true := by decide

/-- Q4: RESULT stays 0x041. -/
theorem test_bsqPop_underflow :
    nextHas (exec (.bsqPop .seq1) { State.reset with result := ⟨false, 0x41#8⟩ })
      (fun t => t.regRead 0x1 == 0x34000003#32 && t.regRead 0x2 == 0x041#32) = true := by decide

/-- Q8. -/
theorem test_bsqGet :
    nextHas (exec (.bsqGet .seq0 1) { State.reset with seq0 := [false, true, true, false] })
      (fun t => t.regRead 0x2 == 0x001#32 && t.seq0.length == 4) = true := by decide

/-- Q10: the first index past the tail. -/
theorem test_bsqGet_past_tail :
    nextHas (exec (.bsqGet .seq0 4) { State.reset with seq0 := [false, true, true, false] })
      (fun t => t.regRead 0x1 == 0x38040004#32) = true := by decide

/-- Q13: `BSQ_COPY s1` copies SEQ1 into SEQ0. -/
theorem test_bsqCopy :
    nextHas (exec (.bsqCopy .seq1) { State.reset with seq0 := [true, true, true, true], seq1 := [true, false] })
      (fun t => t.seq0 == [true, false] && t.seq1 == [true, false]) = true := by decide

/-- Q16. -/
theorem test_bsqEmit :
    nextHas (exec (.bsqEmit .seq0) { packing 0b10110#8 5 with seq0 := [true, false, true] })
      (fun t => t.out == [0xB5#8] && t.wbuf == 0#8 && t.wcnt == 0 && t.outCount == 1#32) = true := by decide

/-- Q19: E_WR_DONE although the sequence is empty. -/
theorem test_bsqEmit_after_flush :
    nextHas (exec (.bsqEmit .seq0) flushed) (fun t => t.regRead 0x1 == 0x48000005#32) = true := by decide

/-- W2: the eighth bit. -/
theorem test_wrBit :
    nextHas (exec (.wrBit true) (packing 0b0100000#8 7))
      (fun t => t.out == [0x41#8] && t.wbuf == 0#8 && t.wcnt == 0) = true := by decide

/-- W10. -/
theorem test_wrBit_after_flush :
    nextHas (exec (.wrBit false) flushed) (fun t => t.regRead 0x1 == 0x60000005#32 && t.out == []) = true := by
  decide

/-- W4. -/
theorem test_wrByte :
    nextHas (exec (.wrByte 0x0F#8) (packing 0b101#8 3))
      (fun t => t.out == [0xA1#8] && t.wbuf == 0b111#8 && t.wcnt == 3) = true := by decide

/-- W12. -/
theorem test_wrByte_after_flush :
    nextHas (exec (.wrByte 0x00#8) flushed) (fun t => t.regRead 0x1 == 0x68000005#32) = true := by decide

/-- W7: the padding is in the low bits. -/
theorem test_wrFlush :
    nextHas (exec .wrFlush (packing 0b1011#8 4))
      (fun t => t.out == [0xB0#8] && t.wcnt == 0 && t.wst == .done) = true := by decide

/-- W6: no pending bit, no byte. -/
theorem test_wrFlush_empty :
    nextHas (exec .wrFlush State.reset) (fun t => t.out == [] && t.wst == .done) = true := by decide

/-- B1. -/
theorem test_rdBit :
    nextHas (exec .rdBit (reading 0#8 0 [0x80#8] false))
      (fun t => t.regRead 0x2 == 0x001#32 && t.rbuf == 0x80#8 && t.rcnt == 7 && t.inCount == 1#32) = true := by
  decide

/-- B2: the word waits. -/
theorem test_rdBit_holds :
    nextHas (exec .rdBit { State.reset with cmdq := [0x8000#16] })
      (fun t => t == { State.reset with cmdq := [0x8000#16] }) = true := by decide

/-- B5: the byte spans two input bytes. -/
theorem test_rdByte :
    nextHas (exec .rdByte (reading 0xA5#8 3 [0x3C#8] false))
      (fun t => t.regRead 0x2 == 0x0A7#32 && t.rbuf == 0x3C#8 && t.rcnt == 3) = true := by decide

/-- B7: 3 bits left at stream end. -/
theorem test_rdByte_truncated :
    nextHas (exec .rdByte (reading 0xA5#8 3 [] true))
      (fun t => t.rcnt == 0 && t.regRead 0x1 == 0x88000006#32 && t.regRead 0x2 == 0#32) = true := by decide

/-- P3, step 1, with TROOT = 2. -/
theorem test_decSym :
    nextHas (exec .decSym { State.reset with troot := 2#10, lit := 9#8, litCnt := 8, cwZero := false })
      (fun t => t.dst == .walk && t.node == 2#10 && t.lit == 0#8 && t.litCnt == 0 && t.cwZero) = true := by
  decide

/-- D12: DEC_SYM in DONE reports end of stream. -/
theorem test_decSym_done :
    nextHas (exec .decSym { State.reset with dst := .done })
      (fun t => t.dst == .done && t.regRead 0x2 == 0x100#32) = true := by decide

/-! ## One step of DEC, INS and HOST -/

/-- P3, step 6: bit 1 goes right. -/
theorem test_walk_right :
    nextHas (decTurn (walking f1 [0x80#8] true))
      (fun t => t.node == 2#10 && t.depth == 1 && t.cwBits == 1 && !t.cwZero && t.rcnt == 7) = true := by decide

/-- P3, step 7: the symbol leaf. -/
theorem test_walk_symbol :
    nextHas (decTurn { walking f1 [] true with node := 2#10, depth := 1, cwBits := 1 })
      (fun t => t.regRead 0x8 == 0x41#32 && t.regRead 0x2 == 0x041#32 && t.dst == .wait) = true := by decide

/-- P3, step 2: the NYT leaf at the root. -/
theorem test_walk_nyt :
    nextHas (decTurn (walking [(0, 3#32)] [] false)) (fun t => t.dst == .lit && t.depth == 0) = true := by decide

/-- D6: the malformed word at handle 5. -/
theorem test_walk_malformed :
    nextHas (decTurn { walking [(5, 2#32)] [] false with node := 5#10 })
      (fun t => t.regRead 0x1 == 0x00050017#32) = true := by decide

/-- D7: a symbol leaf at the root. -/
theorem test_walk_symbol_root :
    nextHas (decTurn (walking [(0, 0x105#32)] [] false)) (fun t => t.regRead 0x1 == 0x00000017#32) = true := by
  decide

/-- D8: the depth limit comes before the reader. -/
theorem test_walk_depth_limit :
    nextHas (decTurn { walking [(0, 0#32)] [0#8] false with depth := 256, cwBits := 256 })
      (fun t => t.regRead 0x1 == 0x00000017#32 && t.inq.length == 1) = true := by decide

/-- V1 of 93_implementation_defined.md: at a word INS never wrote DEC goes on with some word, which is
read like any other. -/
theorem test_walk_unwritten :
    let s : State := { walking f1 [] true with node := 3#10 }
    decTurn s = .next (s.walkOn (Config.freeNode 3#10)) := rfl

/-- D14: the eighth literal bit completes the symbol. -/
theorem test_lit_completes :
    nextHas (decTurn { literal 7 [] true with rbuf := 0x41#8, rcnt := 1, lit := 0x20#8, cwZero := false })
      (fun t => t.regRead 0x8 == 0x141#32 && t.regRead 0x2 == 0x041#32 && t.dst == .wait && t.cwBits == 8) = true := by
  decide

/-- D5: eight zero bits are no padding. -/
theorem test_end_of_input_truncated :
    nextHas (decTurn { literal 7 [] true with depth := 1, cwBits := 8 })
      (fun t => t.regRead 0x1 == 0x00080016#32) = true := by decide

/-- P3, step 13: seven zero bits are padding. -/
theorem test_end_of_input_clean :
    nextHas (decTurn { literal 6 [] true with depth := 1, cwBits := 7 })
      (fun t => t.dst == .done && t.regRead 0x2 == 0x100#32) = true := by decide

/-- D11: `ins_done` in IDLE. -/
theorem test_insDone_protocol : State.reset.insDone.regRead 0x1 = 0x00000028#32 := by decide

/-- P3, step 4. -/
theorem test_insDone :
    ({ State.reset with dst := .wait } : State).insDone =
      { State.reset with dst := .idle, symCount := 1#32 } := by decide

/-- 20_memory.md R76: no write lands during a walk. -/
theorem test_insWrite_window :
    (walking f1 [] false).insMove (.write 1#10 9#32) = walking f1 [] false ∧
    (State.reset.insMove (.write 1#10 9#32)).tree = [(1, 9#32)] := by decide

/-- B9: a push after stream end. -/
theorem test_push_after_end :
    ({ State.reset with inEnd := true } : State).hostMove (.push 0x55#8) = { State.reset with inEnd := true } := by
  decide

/-- X2: STATUS and ERRCODE after the illegal word 0x0001. -/
theorem test_illegal :
    nextHas (cmdTurn { State.reset with cmdq := [0x0001#16] })
      (fun t => t.regRead 0x1 == 0x00010001#32 && t.regRead 0x0 == 0x00001701#32 && t.cmdq == []) = true := by
  decide

/-- X9: IRQ after an error with IE_ERR. -/
theorem test_irq_error :
    nextHas (exec (.bsqPop .seq0) { State.reset with ctrl := 1#3 }) (fun t => t.err && t.irq) = true := by decide

/-- P3's end state, read through the register port. -/
theorem test_registers_of_P3 :
    let s : State := { State.reset with
      dst := .done, cwBits := 7, node := 1#10, depth := 1, litCnt := 6, sym := 0x41#8, inEnd := true }
    s.regRead 0x7 = 0x0001007C#32 ∧ s.regRead 0xE = 0x00006001#32 ∧ s.regRead 0x8 = 0x41#32 ∧
      s.regRead 0x0 = 0x00001230#32 := by decide

/-! ## Witnesses: a state and operands that meet the hypotheses of the obligation named -/

theorem witness_DecodeOfEncodeIsTheCommand :
    (Instr.bsqGet .seq1 511).wellFormed = true ∧ (Instr.bsqGet .seq0 0).wellFormed = true := by decide

theorem witness_EncodeOfDecodeIsTheWord : decode 0x39FF#16 = .ok (.bsqGet .seq0 511) := by decide

theorem witness_EveryWordIsOneCommandOrIllegal :
    ∃ r ∈ opcodeTable, 0x3DFF#16 &&& r.mask = r.pattern := by decide

theorem witness_ReservedOpcodesAreIllegal :
    opcOf 0x1FFF#16 ∈ [0x03#5, 0x0A#5, 0x0B#5, 0x0F#5, 0x12#5, 0x13#5] ∧ 0x15#5 ≤ opcOf 0xA800#16 ∧
    0x15#5 ≤ opcOf 0xFFFF#16 := by decide

theorem witness_StepRunsTheDecodedCommand_idle :
    let s : State := { State.reset with cmdq := [0x2801#16, 0x0000#16] }
    s.cmdq = 0x2801#16 :: [0x0000#16] ∧ decode 0x2801#16 = .ok (.bsqPush .seq0 true) ∧ s.sched = [] ∧
      s.decEnabled = false := by decide

theorem witness_StepRunsTheDecodedCommand_listed :
    let s : State := { walking f1 [0#8] false with cmdq := [0x0800#16], sched := [.cmd, .dec] }
    s.cmdq = 0x0800#16 :: [] ∧ decode 0x0800#16 = .ok .srst ∧ s.sched = .cmd :: [.dec] := by decide

theorem witness_StepRunsTheDecodedCommand_illegal :
    let s : State := { State.reset with cmdq := [0xFFFF#16] }
    s.cmdq = 0xFFFF#16 :: [] ∧ decode 0xFFFF#16 = .error .reservedOpcode ∧ s.sched = [] ∧
      s.decEnabled = false := by decide

theorem witness_StepRunsTheDecodedCommand_illegal_listed :
    let s : State := { State.reset with cmdq := [0x0001#16], sched := [.cmd] }
    s.cmdq = 0x0001#16 :: [] ∧ decode 0x0001#16 = .error .reservedBit ∧ s.sched = .cmd :: [] := by decide

theorem witness_StepRunsTheDecodedCommand_no_word :
    let s : State := State.reset
    let s' : State := { State.reset with sched := [.cmd, .dec] }
    (s.cmdq = [] ∧ s.sched = [] ∧ s.decEnabled = false) ∧ (s'.cmdq = [] ∧ s'.sched = .cmd :: [.dec]) := by decide

theorem witness_StepRunsTheDecodedCommand_agents :
    ({ walking f1 [0#8] false with sched := [.dec, .cmd] } : State).sched = .dec :: [.cmd] ∧
    ({ State.reset with sched := [.ins (.write 0#10 3#32)] } : State).sched = .ins (.write 0#10 3#32) :: [] ∧
    ({ State.reset with sched := [.host (.push 0x41#8)] } : State).sched = .host (.push 0x41#8) :: [] ∧
    ({ failed with sched := [.powerOn] } : State).sched = .powerOn :: [] := by decide

theorem witness_StepRunsTheDecodedCommand_dec :
    let s : State := { walking f1 [0#8] false with cmdq := [0x0000#16] }
    s.sched = [] ∧ s.decEnabled = true ∧ ∀ ws, s.cmdq ≠ 0x0800#16 :: ws :=
  ⟨rfl, by decide, fun _ h => absurd (List.cons.inj h).1 (by decide)⟩

theorem witness_StepRunsTheDecodedCommand_either :
    let s : State := { walking f1 [0#8] false with cmdq := [0x0800#16] }
    s.sched = [] ∧ s.decEnabled = true ∧ s.cmdq = 0x0800#16 :: [] := by decide

/-- DEC's turn is DEC's step. -/
theorem test_step_runs_dec :
    nextHas (step (walking f1 [0x80#8] true)) (fun t => t.node == 2#10 && t.depth == 1) = true := by decide

theorem witness_StepKeepsTheInvariant :
    (State.reset.withFetchWord 16 0x2801).Inv ∧
    ∃ t, step (State.reset.withFetchWord 16 0x2801) = .next t := ⟨by decide, _, rfl⟩

theorem witness_StepKeepsTheInvariant_walk :
    (walking f1 [0x80#8] true).Inv ∧ ∃ t, step (walking f1 [0x80#8] true) = .next t := ⟨by decide, _, rfl⟩

theorem witness_IllegalWordRaisesIllegal :
    let s : State := { State.reset with cmdq := [0x6900#16, 0x0000#16] }
    s.cmdq = 0x6900#16 :: [0x0000#16] ∧ decode 0x6900#16 = .error .reservedBit ∧ s.Runs := by decide

theorem witness_RaiseKeepsTheFirstError : failed.err = true ∧ State.reset.err = false := by decide

theorem witness_ErrorDiscardsEveryWordButSrst :
    let s : State := { failed with cmdq := [0xFFFF#16, 0x0800#16] }
    s.cmdq = 0xFFFF#16 :: [0x0800#16] ∧ s.err = true ∧ s.dst = .err ∧ (0xFFFF#16 : Word) ≠ 0x0800#16 ∧
      s.inEnd = false := by decide

theorem witness_ErrorDiscardsEveryWordButSrst_srst :
    let s : State := { failed with cmdq := [0x0800#16] }
    s.cmdq = 0x0800#16 :: [] ∧ s.err = true ∧ s.dst = .err := by decide

theorem witness_OnlyResetLeavesTheErrorState_srst :
    let s : State := { failed with cmdq := [0x0800#16] }
    s.err = true ∧ ∃ t, step s = .next t ∧ t.err = false := ⟨by decide, _, rfl, by decide⟩

theorem witness_OnlyResetLeavesTheErrorState_powerOn :
    let s : State := { failed with sched := [.powerOn] }
    s.err = true ∧ ∃ t, step s = .next t ∧ t.err = false := ⟨by decide, _, rfl, by decide⟩

theorem witness_BusyDecoderHoldsTheCommandPort :
    let s : State := { State.reset with dst := .wait, cmdq := [0x0000#16] }
    s.cmdq = 0x0000#16 :: [] ∧ (s.dst = .walk ∨ s.dst = .lit ∨ s.dst = .wait) ∧
      (0x0000#16 : Word) ≠ 0x0800#16 := by decide

theorem witness_BusyDecoderHoldsTheCommandPort_walk_and_lit :
    ({ walking f1 [] false with cmdq := [0xFFFF#16] } : State).dst = .walk ∧
    ({ literal 0 [] false with cmdq := [0x8000#16] } : State).dst = .lit := by decide

theorem witness_BusyDecoderHoldsTheCommandPort_srst :
    ({ State.reset with dst := .wait, cmdq := [0x0800#16] } : State).cmdq = 0x0800#16 :: [] := by decide

theorem witness_CmdIndexCountsTheWordsTaken_taken : ∃ t, exec .nop State.reset = .next t := ⟨_, rfl⟩

theorem witness_CmdIndexCountsTheWordsTaken_held :
    exec .rdBit { State.reset with cmdq := [0x8000#16] } = .next { State.reset with cmdq := [0x8000#16] } := rfl

theorem witness_HbsaWritesNoTreeAndNoCommandWord :
    (∃ t, exec .decSym { State.reset with tree := f1 } = .next t) ∧
    ∃ t, decTurn (walking f1 [0x80#8] true) = .next t := ⟨⟨_, rfl⟩, _, rfl⟩

theorem witness_OnlySetctrlAndResetWriteCtrl_setctrl :
    ∃ t, step { State.reset with cmdq := [0x1005#16] } = .next t ∧ t.ctrl ≠ 0#3 := ⟨_, rfl, by decide⟩

theorem witness_OnlySetctrlAndResetWriteCtrl_srst :
    ∃ t, step { State.reset with ctrl := 1#3, cmdq := [0x0800#16] } = .next t ∧ t.ctrl ≠ 1#3 :=
  ⟨_, rfl, by decide⟩

theorem witness_OnlySetctrlAndResetWriteCtrl_powerOn :
    ∃ t, step { State.reset with ctrl := 7#3, sched := [.powerOn] } = .next t ∧ t.ctrl ≠ 7#3 :=
  ⟨_, rfl, by decide⟩

theorem witness_NopOnlyTakesItsWord :
    State.reset.busy = false ∧ failed.busy = false ∧ failed.err = true := by decide

theorem witness_SetctrlWritesCtrl :
    ({ State.reset with dst := .done } : State).busy = false ∧ State.reset.err = false ∧
    failed.busy = false ∧ failed.err = true := by decide

theorem witness_BsqClrEmptiesItsSequence :
    ({ State.reset with seq0 := [true, false, true] } : State).Runs ∧
    ({ flushed with dst := .done } : State).Runs := by decide

theorem witness_BsqPushAppendsAtTheTail :
    ({ State.reset with seq0 := List.replicate 255 true } : State).Runs ∧
    (({ State.reset with seq0 := List.replicate 255 true } : State).seq .seq0).length ≠ 256 := by
  decide +kernel

theorem witness_BsqPushAppendsAtTheTail_full :
    ({ State.reset with seq1 := List.replicate 256 true } : State).Runs ∧
    (({ State.reset with seq1 := List.replicate 256 true } : State).seq .seq1).length = 256 := by
  decide +kernel

theorem witness_BsqPopRemovesTheTail :
    ({ State.reset with seq0 := [true, false] } : State).Runs ∧
    ({ State.reset with seq0 := [true, false] } : State).seq .seq0 = [true] ++ [false] ∧
    ({ State.reset with seq0 := [true, false] } : State).seq .seq1 = [] := by decide

theorem witness_BsqGetReadsTheIndexedBit :
    let s : State := { State.reset with seq1 := [false, true, true, false] }
    s.Runs ∧ 3 < (s.seq .seq1).length ∧ (s.seq .seq1).length ≤ 4 ∧ (3 < 512 ∧ 511 < 512) := by decide

theorem witness_BsqCopyWritesTheOtherRegister :
    ({ State.reset with seq0 := [false, true], seq1 := [true, true, true] } : State).Runs := by decide

theorem witness_CopiedSequencesAreIndependent :
    let s : State := { State.reset with seq0 := [false, true] }
    s.Runs ∧ ∃ t u, exec (.bsqCopy .seq0) s = .next t ∧ exec (.bsqPop .seq0) t = .next u :=
  ⟨by decide, _, _, rfl, rfl⟩

theorem witness_PopUndoesPush :
    State.reset.Runs ∧ (State.reset.seq .seq0).length < 256 ∧
    (({ State.reset with seq0 := List.replicate 255 true } : State).seq .seq0).length < 256 := by
  decide +kernel

theorem witness_BsqEmitWritesTheWholeSequence :
    let s : State := { packing 0b1111111#8 7 with seq0 := List.replicate 256 true }
    s.Runs ∧ s.wst = .streaming ∧ s.PackerOk := by decide +kernel

theorem witness_BsqEmitWritesTheWholeSequence_flushed : flushed.Runs ∧ flushed.wst ≠ .streaming := by decide

theorem witness_WrBitPacksOneBit :
    (packing 0b0100000#8 7).Runs ∧ (packing 0b0100000#8 7).wst = .streaming ∧
    (packing 0b0100000#8 7).wcnt = 7 ∧ (packing 0#8 0).wcnt ≠ 7 := by decide

theorem witness_WrBitPacksOneBit_flushed : flushed.Runs ∧ flushed.wst ≠ .streaming := by decide

theorem witness_WrBytePacksALiteral :
    ∀ n ∈ [0, 3, 7], (packing 1#8 n).Runs ∧ (packing 1#8 n).wst = .streaming ∧ (packing 1#8 n).wcnt < 8 := by
  decide

theorem witness_WrBytePacksALiteral_flushed : flushed.Runs ∧ flushed.wst ≠ .streaming := by decide

theorem witness_WrFlushPadsTheLastByte :
    (packing 0b1#8 1).Runs ∧ (packing 0b1#8 1).wst = .streaming ∧ (packing 0b1#8 1).wcnt < 8 ∧
    0 < (packing 0b1#8 1).wcnt ∧ (packing 0#8 0).wcnt = 0 := by decide

theorem witness_WrFlushPadsTheLastByte_flushed : flushed.Runs ∧ flushed.wst ≠ .streaming := by decide

theorem witness_OutIsOnlyAppendedTo :
    (∃ t, exec (.wrByte 0x41#8) State.reset = .next t) ∧
    (Instr.wrByte 0x41#8 ≠ .srst) ∧ ∃ t, decTurn (walking f1 [0#8] true) = .next t :=
  ⟨⟨_, rfl⟩, by decide, _, rfl⟩

theorem witness_WrittenStreamGrowsByTheBitsGiven : (packing 0b1111111#8 7).wcnt < 8 := by decide

theorem witness_FlushedStreamIsTheBitsPadded :
    State.reset.Runs ∧ State.reset.wst = .streaming ∧ State.reset.wcnt = 0 ∧ State.reset.wbuf = 0 ∧
    (0 < [0x41#8].length ∧ 7 < 8) := by decide

theorem witness_OnlyWritersTouchThePacker :
    (∀ b, Instr.decSym ≠ .wrBit b) ∧ (∀ v, Instr.decSym ≠ .wrByte v) ∧ Instr.decSym ≠ .wrFlush ∧
    (∀ sel, Instr.decSym ≠ .bsqEmit sel) ∧ Instr.decSym ≠ .srst ∧ ∃ t, exec .decSym (packing 1#8 1) = .next t :=
  ⟨nofun, nofun, nofun, nofun, nofun, _, rfl⟩

theorem witness_OnlyWritersTouchThePacker_dec : ∃ t, decTurn (walking f1 [0#8] true) = .next t := ⟨_, rfl⟩

theorem witness_WritersIgnoreReaderAndDecoder :
    let s : State := packing 1#8 1
    let s' : State := { reading 0xFF#8 5 [0x12#8] true with wbuf := 1#8, wcnt := 1, dst := .done, tree := f1 }
    (∃ v, Instr.wrByte 0x41#8 = .wrByte v) ∧ s.Runs ∧ s'.Runs ∧ SameSeqs s s' ∧ SamePacker s s' ∧ SameOut s s' ∧
      ∃ t t', exec (.wrByte 0x41#8) s = .next t ∧ exec (.wrByte 0x41#8) s' = .next t' :=
  ⟨⟨_, rfl⟩, by decide, by decide, by decide, by decide, by decide, _, _, rfl, rfl⟩

theorem witness_RdBitServesOneBit :
    (reading 0x80#8 8 [] false).Runs ∧ (reading 0x80#8 8 [] false).bitAvail = true ∧
    (reading 0#8 0 [0x80#8] false).bitAvail = true ∧
    (reading 0#8 0 [] true).rdEos = true ∧ (reading 0#8 0 [] false).rdWait = true := by decide

theorem witness_RdByteServesEightBits :
    (reading 0xA5#8 8 [] false).Runs ∧ (reading 0xA5#8 8 [] false).rcnt ≤ 8 ∧
    8 ≤ (reading 0xA5#8 8 [] false).availBits ∧ (reading 0xA5#8 8 [] false).rcnt = 8 := by decide

theorem witness_RdByteServesEightBits_spanning :
    let s := reading 0xA5#8 3 [0x3C#8] false
    s.Runs ∧ s.rcnt ≤ 8 ∧ 8 ≤ s.availBits ∧ s.rcnt < 8 ∧ s.inq = 0x3C#8 :: [] := by decide

theorem witness_RdByteServesEightBits_ends :
    ((reading 0#8 0 [] true).Runs ∧ (reading 0#8 0 [] true).availBits = 0 ∧ (reading 0#8 0 [] true).inEnd = true) ∧
    ((reading 0#8 7 [] true).Runs ∧ 0 < (reading 0#8 7 [] true).availBits ∧
      (reading 0#8 7 [] true).availBits < 8 ∧ (reading 0#8 7 [] true).inEnd = true) ∧
    ((reading 0#8 7 [] false).Runs ∧ (reading 0#8 7 [] false).availBits < 8 ∧
      (reading 0#8 7 [] false).inEnd = false) := by decide

theorem witness_ReadersTakeFromTheFront :
    (Instr.rdByte ≠ .srst ∧ ∃ t, exec .rdByte (reading 0xA5#8 3 [0x3C#8] false) = .next t) ∧
    ∃ t, decTurn (walking f1 [0x80#8] true) = .next t := ⟨⟨nofun, _, rfl⟩, _, rfl⟩

theorem witness_ServedBitsAreThePendingBits :
    11 ≤ (reading 0xA5#8 3 [0x3C#8] false).availBits ∧ 0 ≤ State.reset.availBits := by decide

theorem witness_PackedBitsAreReadBack :
    let v : Bits := [true, false, true]
    State.reset.Runs ∧ State.reset.wst = .streaming ∧ State.reset.wcnt = 0 ∧ State.reset.wbuf = 0 ∧
    (∃ t, exec .wrFlush (State.reset.writeBits v) = .next t ∧ t.out = State.reset.out ++ [0xA0#8]) ∧
    (reading 0#8 0 [0xA0#8] true).rcnt = 0 ∧ (reading 0#8 0 [0xA0#8] true).inq = [0xA0#8] :=
  ⟨by decide, rfl, rfl, rfl, ⟨_, rfl, by decide⟩, rfl, rfl⟩

theorem witness_InputPortMoves :
    State.reset.busy = false ∧ (0x0000#16 : Word) ≠ 0x0800#16 ∧ (literal 0 [] false).busy = true ∧
    State.reset.inEnd = false ∧ (reading 0#8 0 [] true).inEnd = true ∧
    ({ State.reset with out := [0x41#8, 0x80#8] } : State).out = [0x41#8] ++ [0x80#8] := by decide

theorem witness_DecSymStartsACodeword :
    State.reset.Runs ∧ State.reset.dst = .idle ∧ ({ State.reset with dst := .done } : State).Runs := by decide

theorem witness_WalkFollowsTheBit :
    let s := walking f1 [0x80#8] true
    s.dst = .walk ∧ s.err = false ∧ s.tree.read s.node = 0x00200400#32 ∧
      nodeLeaf 0x00200400#32 = false ∧ nodeNyt 0x00200400#32 = false ∧ s.depth ≠ 256 ∧ s.bitAvail = true := by
  decide

theorem witness_WalkFollowsTheBit_waits :
    let s := walking f1 [] false
    s.dst = .walk ∧ s.err = false ∧ s.tree.read s.node = 0x00200400#32 ∧ s.depth ≠ 256 ∧
      s.rdWait = true := by decide

theorem witness_WalkFollowsTheBit_limit :
    let s : State := { walking f1 [0#8] false with depth := 256, cwBits := 256 }
    s.dst = .walk ∧ s.err = false ∧ s.tree.read s.node = 0x00200400#32 ∧ s.depth = 256 := by decide

theorem witness_WalkAtNytEntersLit :
    let s := walking [(0, 3#32)] [] false
    s.dst = .walk ∧ s.tree.read s.node = 3#32 ∧ nodeLeaf 3#32 = true ∧ nodeNyt 3#32 = true ∧ s.DecoderOk := by
  decide

theorem witness_MalformedTreeRaisesTree_malformed :
    let s : State := { walking [(5, 2#32)] [] false with node := 5#10 }
    s.dst = .walk ∧ s.err = false ∧ s.tree.read s.node = 2#32 ∧ nodeLeaf 2#32 = false ∧
      nodeNyt 2#32 = true := by decide

theorem witness_MalformedTreeRaisesTree_symbol_at_root :
    let s := walking [(0, 0x105#32)] [] false
    s.dst = .walk ∧ s.err = false ∧ s.tree.read s.node = 0x105#32 ∧ nodeLeaf 0x105#32 = true ∧
      nodeNyt 0x105#32 = false ∧ s.depth = 0 := by decide

theorem witness_MalformedTreeRaisesTree_limit :
    let s : State := { walking [(0, 0#32)] [] true with depth := 256, cwBits := 256 }
    s.dst = .walk ∧ s.err = false ∧ s.tree.read s.node = 0#32 ∧ nodeLeaf 0#32 = false ∧
      nodeNyt 0#32 = false ∧ s.depth = 256 := by decide

theorem witness_WalkAtSymbolLeafDelivers :
    let s : State := { walking f1 [] true with node := 2#10, depth := 1, cwBits := 1 }
    s.dst = .walk ∧ s.tree.read s.node = 0x105#32 ∧ nodeLeaf 0x105#32 = true ∧
      nodeNyt 0x105#32 = false ∧ 1 ≤ s.depth := by decide

theorem witness_LitCollectsTheLiteral :
    (literal 7 [0x80#8] false).dst = .lit ∧ (literal 7 [0x80#8] false).bitAvail = true ∧
    (literal 7 [0x80#8] false).litCnt = 7 ∧ (literal 0 [0x80#8] false).litCnt ≠ 7 ∧
    (literal 6 [] false).dst = .lit ∧ (literal 6 [] false).rdWait = true := by decide

theorem witness_EndOfInputTellsPaddingFromTruncation_clean :
    let s : State := { literal 6 [] true with depth := 1, cwBits := 7 }
    s.err = false ∧ s.rdEos = true ∧ s.dst = .lit ∧
      (s.cwBits = 0 ∨ (s.cwBits ≤ 7 ∧ s.cwZero = true)) := by decide

theorem witness_EndOfInputTellsPaddingFromTruncation_truncated :
    let s : State := { walking [(0, 0#32)] [] true with depth := 8, cwBits := 8 }
    s.err = false ∧ s.rdEos = true ∧ (s.dst = .walk ∧ s.depth ≠ 256 ∧
      nodeLeaf (s.tree.read s.node) = false ∧ nodeNyt (s.tree.read s.node) = false) ∧
      ¬ (s.cwBits = 0 ∨ (s.cwBits ≤ 7 ∧ s.cwZero = true)) := by decide

theorem witness_InsDoneAcknowledgesTheSymbol :
    ({ State.reset with dst := .wait } : State).dst = .wait ∧
    (State.reset.dst ≠ .wait ∧ State.reset.err = false) ∧ (failed.dst ≠ .wait ∧ failed.err = true) := by decide

theorem witness_DecStepIsEnabledExactlyAsTabled :
    ((walking f1 [] false).dst = .walk ∧
      (walking f1 [] false).tree.read (walking f1 [] false).node = 0x00200400#32) ∧
    (literal 0 [] true).dst = .lit ∧ (State.reset.dst ≠ .walk ∧ State.reset.dst ≠ .lit) ∧
    (walking f1 [] false).decEnabled = false ∧
    ({ walking f1 [] false with node := 3#10 } : State).readsUnwritten := by decide

theorem witness_EveryDecStepMakesProgress :
    (walking f1 [0x80#8] true).Inv ∧ (walking f1 [0x80#8] true).decEnabled = true ∧
    ∃ t, decTurn (walking f1 [0x80#8] true) = .next t := ⟨by decide, by decide, _, rfl⟩

theorem witness_EveryDecStepMakesProgress_lit :
    (literal 7 [0x80#8] true).Inv ∧ (literal 7 [0x80#8] true).decEnabled = true ∧
    ∃ t, decTurn (literal 7 [0x80#8] true) = .next t := ⟨by decide, by decide, _, rfl⟩

theorem witness_KnownCodewordDecodesToItsSymbol :
    let s := walking f1 [0xC0#8] true
    s.dst = .walk ∧ s.depth + [true].length ≤ 256 ∧ 1 ≤ s.depth + [true].length ∧
      pathClass s.tree s.node [true] = some (.symbolLeaf 0x41#8) ∧
      s.pendingBits = [true] ++ [true, false, false, false, false, false, false] := by decide

theorem witness_EscapedLiteralDecodesToItself :
    let s := walking f1 [0x20#8, 0x80#8] true
    s.dst = .walk ∧ s.depth + [false].length ≤ 256 ∧ s.litCnt = 0 ∧ s.lit = 0 ∧
      pathClass s.tree s.node [false] = some .nytLeaf ∧
      s.pendingBits = [false] ++ byteBits 0x41#8 ++ [false, false, false, false, false, false, false] := by
  decide

theorem witness_TreeWritesOnlyInTheWindow :
    (literal 0 [] false).dst = .lit ∧ (State.reset.dst ≠ .walk ∧ State.reset.dst ≠ .lit) ∧
    (1#10 : Handle) ≠ 0#10 := by decide

theorem witness_RegisterFields : State.reset.Inv ∧ failed.Inv ∧ (walking f1 [0x80#8] true).Inv :=
  ⟨by decide, by decide, by decide⟩

theorem witness_RegisterReadsHaveNoEffect :
    ({ State.reset with sched := [.host (.readReg 0x2), .cmd] } : State).sched =
      .host (.readReg 0x2) :: [.cmd] := by decide

theorem witness_IrqFollowsItsSources :
    State.reset.ctrl = 0 ∧ ({ State.reset with ctrl := 1#3 } : State).ctrl.getLsbD 0 = true ∧
    (({ State.reset with ctrl := 2#3, dst := .wait } : State).dst = .wait ∧
      ({ State.reset with ctrl := 2#3, dst := .wait } : State).err = false) := by decide

end Sys2Proof.Tests
end

section
/-! SUPPORT. What the commands and the agents' turns write, as equations and frames: the flags of DEC,
the sequences, the decoder of command words, and CTRL with the command port. -/

namespace Sys2Proof.Machine

/-! ### Flags -/

/-- DEC is busy in WALK, LIT and WAIT (10_state.md R38). -/
theorem State.busy_iff (s : State) :
    s.busy = true ↔ s.dst = .walk ∨ s.dst = .lit ∨ s.dst = .wait := by
  cases h : s.dst <;> simp [State.busy, h]

/-- No bit is available iff the unpacker and INQ are empty (10_state.md R43). -/
theorem State.bitAvail_eq_false_iff (s : State) : s.bitAvail = false ↔ s.rcnt = 0 ∧ s.inq = [] := by
  simp [State.bitAvail]

theorem State.bitAvail_iff_rcnt_or_inq (s : State) : s.bitAvail = true ↔ 0 < s.rcnt ∨ s.inq ≠ [] := by
  simp [State.bitAvail]

theorem State.rdEos_iff (s : State) :
    s.rdEos = true ↔ s.rcnt = 0 ∧ s.inq = [] ∧ s.inEnd = true := by
  simp [State.rdEos, and_assoc]

/-- A reader that has a bit is not at the end of the stream (10_state.md R43). -/
theorem State.rdEos_eq_false_of_bitAvail {s : State} (h : s.bitAvail = true) : s.rdEos = false := by
  by_contra he
  obtain ⟨hr, hq, -⟩ := s.rdEos_iff.1 (Bool.not_eq_false _ ▸ he)
  simp [s.bitAvail_eq_false_iff.2 ⟨hr, hq⟩] at h

theorem State.rdWait_iff (s : State) :
    s.rdWait = true ↔ s.rcnt = 0 ∧ s.inq = [] ∧ s.inEnd = false := by
  cases he : s.inEnd <;> simp [State.rdWait, State.bitAvail, State.rdEos, he]

@[simp] theorem length_byteBits (v : Byte) : (byteBits v).length = 8 := rfl

/-- AvailBits counts the bits still to be served (10_state.md R43). -/
theorem State.length_pendingBits (s : State) : s.pendingBits.length = s.availBits := by
  simp [State.pendingBits, State.availBits, Nat.mul_comm]

/-- A command waits for its enabling only if it reads and the stream has not ended (42_reader.md R152,
R153). -/
theorem commandEnabled_eq_false {i : Instr} {s : State} (h : commandEnabled i s = false) :
    (i = .rdBit ∨ i = .rdByte) ∧ s.inEnd = false := by
  cases i with
  | rdBit =>
    simp only [commandEnabled, Bool.or_eq_false_iff, State.bitAvail_eq_false_iff] at h
    obtain ⟨⟨hr, hq⟩, he⟩ := h
    exact ⟨.inl rfl, by simpa [State.rdEos, hr, hq] using he⟩
  | rdByte =>
    simp only [commandEnabled, Bool.or_eq_false_iff] at h
    exact ⟨.inr rfl, h.2⟩
  | _ => simp [commandEnabled] at h

/-! ### The sequences -/

@[simp] theorem State.seq_raise (s : State) (c : ErrCode) (r : ErrSrc) (i : BitVec 16) (sel : Sel) :
    (s.raise c r i).seq sel = s.seq sel := by
  cases sel <;> simp [State.seq]

@[simp] theorem State.seq_setData (s : State) (v : Byte) (sel : Sel) :
    (s.setData v).seq sel = s.seq sel := by
  cases sel <;> rfl

/-- After a copy both registers hold the source's bits (40_bitsequence.md R107). -/
theorem State.seq_setSeq_copy (s : State) (src sel : Sel) :
    (s.setSeq src.other (s.seq src)).seq sel = s.seq src := by
  cases src <;> cases sel <;> rfl

/-- BSQ_PUSH, BSQ_POP and BSQ_CLR of a register leave the other one (10_state.md R23). -/
theorem commandBody_seq_other {i : Instr} {sel : Sel} (s : State)
    (hi : (∃ b, i = .bsqPush sel b) ∨ i = .bsqPop sel ∨ i = .bsqClr sel) :
    (commandBody i s).seq sel.other = s.seq sel.other := by
  obtain ⟨b, rfl⟩ | rfl | rfl := hi
  · simp only [commandBody]; split <;> simp
  · simp only [commandBody]; split <;> simp
  · simp [commandBody]

/-- Whatever CMD does with BSQ_PUSH, BSQ_POP or BSQ_CLR of a register, the other one stays. -/
theorem exec_seq_other {i : Instr} {sel : Sel} {s t : State}
    (hi : (∃ b, i = .bsqPush sel b) ∨ i = .bsqPop sel ∨ i = .bsqClr sel) (h : exec i s = .next t) :
    t.seq sel.other = s.seq sel.other := by
  obtain ⟨rfl, -⟩ | ⟨-, -, rfl⟩ | ⟨rfl, -⟩ | ⟨-, -, -, rfl⟩ := exec_cases h
  · rfl
  · simp
  · simp at hi
  · simp [commandBody_seq_other _ hi]

/-! ### The decoder of command words -/

/-- A decoded word matches a row of the table, and that row builds the command (30_encoding.md R85). -/
theorem decode_ok {w : Word} {i : Instr} (h : decode w = .ok i) :
    ∃ r ∈ opcodeTable, rowMatches w r = true ∧ r.build w = i := by
  unfold decode at h
  split at h
  · rename_i r hr
    injection h with h
    exact ⟨r, List.mem_of_find?_eq_some hr, List.find?_some hr, h⟩
  · cases h

/-- 0x0800 is the one word of SRST (30_encoding.md R84). -/
theorem decode_eq_srst_iff (w : Word) : decode w = .ok .srst ↔ w = 0x0800#16 := by
  refine ⟨fun h => ?_, fun h => by subst h; rfl⟩
  obtain ⟨r, hr, hm, hb⟩ := decode_ok h
  have hrow : r.mask = 0xFFFF#16 ∧ r.pattern = 0x0800#16 := by
    simp only [opcodeTable, List.mem_cons, List.not_mem_nil, or_false] at hr
    rcases hr with rfl | rfl | rfl | rfl | rfl | rfl | rfl | rfl | rfl | rfl | rfl | rfl | rfl |
      rfl | rfl
    · cases hb
    · exact ⟨rfl, rfl⟩
    all_goals cases hb
  have hand : w &&& 0xFFFF#16 = w := BitVec.and_allOnes
  simpa [rowMatches, hrow, hand] using hm

/-! ### CMD's turn -/

theorem cmdTurn_nil {s : State} (h : s.cmdq = []) : cmdTurn s = .next s := by
  simp [cmdTurn, h]

theorem cmdTurn_ok {s : State} {w : Word} {ws : List Word} {i : Instr} (h : s.cmdq = w :: ws)
    (hi : decode w = .ok i) : cmdTurn s = exec i s := by
  simp [cmdTurn, h, hi]

theorem cmdTurn_illegal {s : State} {w : Word} {ws : List Word} {e : DecodeError}
    (h : s.cmdq = w :: ws) (he : decode w = .error e) : cmdTurn s = .next (s.illegal w) := by
  simp [cmdTurn, h, he]

theorem cmdTurn_srst {s : State} {ws : List Word} (h : s.cmdq = 0x0800#16 :: ws) :
    cmdTurn s = exec .srst s :=
  cmdTurn_ok h ((decode_eq_srst_iff _).2 rfl)

/-- While DEC is busy every word but SRST waits (10_state.md R44). -/
theorem cmdTurn_busy {s : State} {w : Word} {ws : List Word} (h : s.cmdq = w :: ws)
    (hb : s.busy = true) (hw : w ≠ 0x0800#16) : cmdTurn s = .next s := by
  cases hd : decode w with
  | error e => rw [cmdTurn_illegal h hd, State.illegal, State.issue_busy hb]
  | ok i =>
    have hi : i ≠ .srst := fun hi => hw ((decode_eq_srst_iff w).1 (hi ▸ hd))
    rw [cmdTurn_ok h hd, exec_eq hi, State.issue_busy hb]

/-! ### The step's turn -/

/-- A listed turn is taken off the list and run (log 1). -/
theorem step_listed {s : State} {m : Turn} {ts : List Turn} (h : s.sched = m :: ts) :
    step s = takeTurn m { s with sched := ts } := by
  simp [step, nextTurn, h]

/-- With no turn listed HBSA's own agents go on (log 2). -/
theorem step_auto {s : State} (h : s.sched = []) : step s = autoTurn s := by
  simp [step, nextTurn, h]

theorem autoTurn_of_not_decEnabled {s : State} (h : s.decEnabled = false) :
    autoTurn s = cmdTurn s := by
  simp [autoTurn, h]

theorem State.srstWaits_iff (s : State) : s.srstWaits = true ↔ ∃ ws, s.cmdq = 0x0800#16 :: ws := by
  unfold State.srstWaits
  split
  · rename_i h; simp [h]
  · rename_i w ws h; simp [h]

theorem autoTurn_of_decEnabled {s : State} (h : s.decEnabled = true) (hw : s.srstWaits = false) :
    autoTurn s = decTurn s := by
  simp [autoTurn, h, hw]

/-- Where SRST waits and DEC is enabled, either of the two agents goes next (log 2). -/
theorem autoTurn_of_srstWaits {s : State} (h : s.decEnabled = true) (hw : s.srstWaits = true) :
    autoTurn s = cmdTurn { s with freeUsed := s.freeUsed + 1 } ∨
      autoTurn s = decTurn { s with freeUsed := s.freeUsed + 1 } := by
  simp only [autoTurn, h, hw, if_true]
  cases Config.freeTurn s.freeUsed
  · exact .inr rfl
  · exact .inl rfl

/-! ### Frames of the commands, of DEC's steps and of the moves of HOST and INS -/

/-- A command's body leaves the command port, INS's tree and the order, and CTRL unless the command is
SETCTRL or SRST (10_state.md R33, R35; 20_memory.md R73). -/
theorem commandBody_frame (i : Instr) (s : State) :
    SamePort s (commandBody i s) ∧ SameTree s (commandBody i s) ∧ SameOrder s (commandBody i s) ∧
      (i ≠ .srst → (∀ c, i ≠ .setctrl c) → (commandBody i s).ctrl = s.ctrl) := by
  unfold SamePort SameTree SameOrder
  cases i with
  | nop | srst | setctrl | bsqClr | bsqCopy => simp [commandBody, State.hbsaReset]
  | bsqPush | bsqPop | bsqGet => simp only [commandBody]; split <;> simp
  | bsqEmit sel =>
    obtain ⟨w, c, o, n, h⟩ := s.writeBits_frame (s.seq sel)
    simp only [commandBody, h]; split <;> simp
  | wrBit b =>
    obtain ⟨w, c, o, n, h⟩ := s.writeBit_frame b
    simp only [commandBody, h]; split <;> simp
  | wrByte v =>
    obtain ⟨w, c, o, n, h⟩ := s.writeBits_frame (byteBits v)
    simp only [commandBody, h]; split <;> simp
  | wrFlush =>
    obtain ⟨o, n, h⟩ := s.flush_frame
    simp only [commandBody, h]; split <;> simp
  | rdBit =>
    obtain ⟨v, c, q, n, h⟩ := s.readBit_frame
    simp only [commandBody, h]; split <;> simp
  | rdByte =>
    obtain ⟨v, c, q, n, h⟩ := s.readInto_frame 8 0#8
    simp only [commandBody, h]
    split
    · simp
    · split <;> simp
  | decSym => simp only [commandBody]; split <;> simp [State.startWalk]

/-- A command other than SETCTRL and SRST leaves CTRL (10_state.md R33). -/
theorem exec_ctrl {i : Instr} {s t : State} (h : exec i s = .next t) (hs : i ≠ .srst)
    (hc : ∀ c, i ≠ .setctrl c) : t.ctrl = s.ctrl := by
  obtain ⟨rfl, -⟩ | ⟨-, -, rfl⟩ | ⟨rfl, -⟩ | ⟨-, -, -, rfl⟩ := exec_cases h
  · rfl
  · rfl
  · exact absurd rfl hs
  · obtain ⟨-, -, -, hctrl⟩ := commandBody_frame i s.takeWord
    exact hctrl hs hc

/-- An illegal word leaves CTRL (30_encoding.md R85). -/
theorem State.illegal_ctrl (s : State) (w : Word) : (s.illegal w).ctrl = s.ctrl := by
  unfold State.illegal
  obtain h | ⟨-, -, h⟩ | ⟨-, -, h⟩ :=
    s.issue_cases true fun t => t.raise .illegal .cmd w <;> simp [h]

/-- CMD's turn changes CTRL only with SRST or a SETCTRL at the head of the port (10_state.md R33). -/
theorem cmdTurn_ctrl {s t : State} (h : cmdTurn s = .next t) (hc : t.ctrl ≠ s.ctrl) :
    ∃ w ws, s.cmdq = w :: ws ∧ (w = 0x0800#16 ∨ ∃ c, decode w = .ok (.setctrl c)) := by
  obtain ⟨-, rfl⟩ | ⟨w, ws, e, -, -, rfl⟩ | ⟨w, ws, i, hq, hd, hx⟩ := cmdTurn_cases h
  · exact absurd rfl hc
  · exact absurd (s.illegal_ctrl w) hc
  · refine ⟨w, ws, hq, ?_⟩
    by_contra hn
    rw [not_or, not_exists] at hn
    obtain ⟨hsrst, hset⟩ := hn
    refine hc (exec_ctrl hx (fun hi => ?_) fun c hi => ?_)
    · exact hsrst ((decode_eq_srst_iff w).1 (hi ▸ hd))
    · exact hset c (hi ▸ hd)

/-- The end of the input leaves all that is not DEC's own. -/
theorem State.endOfInput_frame (s : State) : DecFrame s s.endOfInput := by
  unfold DecFrame SameSeqs SamePacker SameOut SamePort SameTree SameOrder
  obtain h | h := s.endOfInput_cases <;> simp [h]

/-- A literal bit's step leaves all that is not DEC's own. -/
theorem State.litBit_frame (s : State) (b : Bool) : DecFrame s (s.litBit b) := by
  unfold DecFrame SameSeqs SamePacker SameOut SamePort SameTree SameOrder
  obtain ⟨-, h⟩ | ⟨-, h⟩ := s.litBit_cases b <;> simp [h]

/-- A step of DEC leaves all that is not its own (20_memory.md R73). -/
theorem decTurn_frame {s t : State} (h : decTurn s = .next t) : DecFrame s t := by
  obtain ⟨v, c, q, n, hr⟩ := s.readBit_frame
  have hend := s.endOfInput_frame
  have hlit := s.readBit.2.litBit_frame s.readBit.1
  rw [hr] at hlit
  unfold DecFrame SameSeqs SamePacker SameOut SamePort SameTree SameOrder at hend hlit ⊢
  obtain ⟨-, rfl⟩ | ⟨-, rfl⟩ | ⟨-, rfl⟩ | ⟨-, v, rfl⟩ | ⟨-, -, -, rfl⟩ | ⟨-, -, -, m, rfl⟩ |
    ⟨-, -, rfl⟩ := decTurn_cases h
  · simp
  · simp [State.raiseTree]
  · simp
  · simp
  · exact hend
  · simp [hr]
  · rw [hr]; exact hlit

/-- No step of DEC writes CTRL (10_state.md R33). -/
theorem decTurn_ctrl {s t : State} (h : decTurn s = .next t) : t.ctrl = s.ctrl := by
  obtain ⟨-, -, -, hctrl, -⟩ := decTurn_frame h
  exact hctrl

/-- A move of HOST writes INQ, IN_END, OUT and the command port only (70_reset_and_hazards.md R276). -/
theorem State.hostMove_frame (s : State) (m : HostMove) : ∃ q e o c,
    s.hostMove m = { s with inq := q, inEnd := e, out := o, cmdq := c } := by
  cases m with
  | push v => simp only [State.hostMove]; split <;> exact ⟨_, _, _, _, rfl⟩
  | _ => exact ⟨_, _, _, _, rfl⟩

/-- Everything a move of INS can do (70_reset_and_hazards.md R276). -/
theorem State.insMove_cases (s : State) (m : InsMove) :
    s.insMove m = s ∨ (∃ h w, s.insMove m = { s with tree := s.tree.write h w }) ∨
      (∃ h, s.insMove m = { s with troot := h }) ∨
      (s.dst = .wait ∧ s.insMove m = { s with dst := .idle, symCount := s.symCount + 1 }) ∨
      s.insMove m = s.raise .proto .ins 0 := by
  cases m with
  | write h w =>
    simp only [State.insMove]; split
    · exact .inr (.inl ⟨h, w, rfl⟩)
    · exact .inl rfl
  | setRoot h =>
    simp only [State.insMove]; split
    · exact .inr (.inr (.inl ⟨h, rfl⟩))
    · exact .inl rfl
  | done =>
    simp only [State.insMove, State.insDone]; split
    · exact .inr (.inr (.inr (.inl ⟨‹_›, rfl⟩)))
    · exact .inr (.inr (.inr (.inr rfl)))

@[simp] theorem State.hostMove_ctrl (s : State) (m : HostMove) : (s.hostMove m).ctrl = s.ctrl := by
  obtain ⟨q, e, o, c, h⟩ := s.hostMove_frame m
  rw [h]

@[simp] theorem State.insMove_ctrl (s : State) (m : InsMove) : (s.insMove m).ctrl = s.ctrl := by
  obtain h | ⟨a, w, h⟩ | ⟨a, h⟩ | ⟨-, h⟩ | h := s.insMove_cases m <;> simp [h]

end Sys2Proof.Machine
end

section
/-! SUPPORT. Reading a field back from a register word (10_state.md R37), and the numbers of the named
values. -/

namespace Sys2Proof.Machine

/-! ### Fields of a register word -/

/-- A field holds its value's bits from its place on, and no others. -/
theorem getElem_regField {n : Nat} (v : BitVec n) (lo i : Nat) (hi : i < 32) :
    (regField v lo)[i] = (decide (lo ≤ i ∧ i < lo + n) && v.getLsbD (i - lo)) := by
  by_cases hn : i < lo + n
  · by_cases hl : lo ≤ i <;> simp [regField, hl, hn]
  · have hv : v.getLsbD (i - lo) = false := BitVec.getLsbD_of_ge _ _ (by omega)
    simp [regField, hn, hv]

/-- A flag stands at its own bit and nowhere else. -/
theorem getElem_regFlag (b : Bool) (lo i : Nat) (hi : i < 32) :
    (regFlag b lo)[i] = (decide (i = lo) && b) := by
  have hw : (lo ≤ i ∧ i < lo + 1) ↔ i = lo := by omega
  simp only [regFlag, getElem_regField, hw]
  by_cases h : i = lo <;> simp [h]

/-- A field reads back where it was put. -/
theorem extractLsb'_regField_same {n : Nat} (v : BitVec n) {lo : Nat} (h : lo + n ≤ 32) :
    (regField v lo).extractLsb' lo n = v := by
  ext i hi
  have hlo : lo + i < 32 := by omega
  simp [BitVec.getLsbD_eq_getElem hlo, getElem_regField, hi]

/-- A field shows nothing in the bits beside it. -/
theorem extractLsb'_regField_beside {n : Nat} (v : BitVec n) {lo start len : Nat}
    (h : lo + n ≤ start ∨ start + len ≤ lo) : (regField v lo).extractLsb' start len = 0#len := by
  ext i hi
  have hbeside : ¬(lo ≤ start + i ∧ start + i < lo + n) := by omega
  by_cases hs : start + i < 32
  · simp [BitVec.getLsbD_eq_getElem hs, getElem_regField, hbeside]
  · simp [BitVec.getLsbD_of_ge _ _ (not_lt.1 hs)]

/-- A flag shows nothing in the bits beside it. -/
theorem extractLsb'_regFlag_beside (b : Bool) {lo start len : Nat}
    (h : lo + 1 ≤ start ∨ start + len ≤ lo) : (regFlag b lo).extractLsb' start len = 0#len :=
  extractLsb'_regField_beside _ h

/-- A count that fits its field reads back as itself. -/
theorem toNat_ofNat_of_fits {n k : Nat} (h : k < 2 ^ n) : (BitVec.ofNat n k).toNat = k := by
  rw [BitVec.toNat_ofNat, Nat.mod_eq_of_lt h]

/-- A register that is one count reads as that count. -/
theorem toNat_regField_count {n k : Nat} (hn : n ≤ 32) (h : k < 2 ^ n) :
    (regField (BitVec.ofNat n k) 0).toNat = k := by
  rw [regField, BitVec.shiftLeft_zero, BitVec.toNat_setWidth_of_le hn, toNat_ofNat_of_fits h]

/-! ### The numbers of the named values -/

theorem wstNumber_wstBits (w : Wst) : WstNumber w (wstBits w) := by
  cases w <;> simp [WstNumber, wstBits]

theorem dstNumber_dstBits (d : Dst) : DstNumber d (dstBits d) := by
  cases d <;> simp [DstNumber, dstBits]

theorem errCodeNumber_errCodeBits (c : ErrCode) : ErrCodeNumber c (errCodeBits c) := by
  cases c <;> simp [ErrCodeNumber, errCodeBits]

theorem errSrcNumber_errSrcBits (r : ErrSrc) : ErrSrcNumber r (errSrcBits r) := by
  cases r <;> simp [ErrSrcNumber, errSrcBits]

/-! ### The registers, field by field -/

/-- ERRCODE's fields (10_state.md R37). -/
theorem State.errWord_fields (s : State) :
    s.errWord.extractLsb' 0 4 = errCodeBits s.errCode ∧ s.errWord.extractLsb' 4 2 = errSrcBits s.errSrc ∧
      s.errWord.extractLsb' 6 10 = 0 ∧ s.errWord.extractLsb' 16 16 = s.errInfo := by
  simp [State.errWord, BitVec.extractLsb'_or, extractLsb'_regField_same, extractLsb'_regField_beside]

/-- RESULT's fields (10_state.md R40). -/
theorem State.resultWord_fields (s : State) :
    s.resultWord.extractLsb' 0 8 = s.result.data ∧ s.resultWord.getLsbD 8 = s.result.eos ∧
      s.resultWord.extractLsb' 9 23 = 0 := by
  simp [State.resultWord, BitVec.extractLsb'_or, getElem_regField, getElem_regFlag,
    extractLsb'_regField_same, extractLsb'_regField_beside, extractLsb'_regFlag_beside]

/-- WR_STATE's fields (10_state.md R37). -/
theorem State.wrStateWord_fields (s : State) :
    s.wrStateWord.extractLsb' 0 8 = s.wbuf ∧ s.wrStateWord.extractLsb' 8 3 = BitVec.ofNat 3 s.wcnt ∧
      s.wrStateWord.getLsbD 11 = false ∧ s.wrStateWord.extractLsb' 12 2 = wstBits s.wst ∧
      s.wrStateWord.extractLsb' 14 18 = 0 := by
  simp [State.wrStateWord, BitVec.extractLsb'_or, getElem_regField, extractLsb'_regField_same,
    extractLsb'_regField_beside]

/-- RD_STATE's fields (10_state.md R37). -/
theorem State.rdStateWord_fields (s : State) :
    s.rdStateWord.extractLsb' 0 8 = s.rbuf ∧ s.rdStateWord.extractLsb' 8 4 = BitVec.ofNat 4 s.rcnt ∧
      s.rdStateWord.getLsbD 12 = s.inEnd ∧ s.rdStateWord.getLsbD 13 = s.inq.isEmpty ∧
      s.rdStateWord.extractLsb' 14 18 = 0 := by
  simp [State.rdStateWord, BitVec.extractLsb'_or, getElem_regField, getElem_regFlag,
    extractLsb'_regField_same, extractLsb'_regField_beside, extractLsb'_regFlag_beside]

/-- DEC_STATE's fields (10_state.md R37). -/
theorem State.decStateWord_fields (s : State) :
    s.decStateWord.extractLsb' 0 3 = dstBits s.dst ∧ s.decStateWord.getLsbD 3 = s.cwZero ∧
      s.decStateWord.extractLsb' 4 9 = BitVec.ofNat 9 s.cwBits ∧
      s.decStateWord.extractLsb' 13 3 = 0 ∧ s.decStateWord.extractLsb' 16 10 = s.node ∧
      s.decStateWord.extractLsb' 26 6 = 0 := by
  simp [State.decStateWord, BitVec.extractLsb'_or, getElem_regField, getElem_regFlag,
    extractLsb'_regField_same, extractLsb'_regField_beside, extractLsb'_regFlag_beside]

/-- SYM's fields (10_state.md R37). -/
theorem State.symWord_fields (s : State) :
    s.symWord.extractLsb' 0 8 = s.sym ∧ s.symWord.getLsbD 8 = s.symNew ∧
      s.symWord.extractLsb' 9 23 = 0 := by
  simp [State.symWord, BitVec.extractLsb'_or, getElem_regField, getElem_regFlag,
    extractLsb'_regField_same, extractLsb'_regField_beside, extractLsb'_regFlag_beside]

/-- DEC_AUX's fields (10_state.md R37). -/
theorem State.decAuxWord_fields (s : State) :
    s.decAuxWord.extractLsb' 0 9 = BitVec.ofNat 9 s.depth ∧ s.decAuxWord.extractLsb' 9 3 = 0 ∧
      s.decAuxWord.extractLsb' 12 4 = BitVec.ofNat 4 s.litCnt ∧
      s.decAuxWord.extractLsb' 16 8 = s.lit ∧ s.decAuxWord.extractLsb' 24 8 = 0 := by
  simp [State.decAuxWord, BitVec.extractLsb'_or, extractLsb'_regField_same, extractLsb'_regField_beside]

theorem State.regRead_status (s : State) : s.regRead 0x0 = s.statusWord := rfl

/-- STATUS's one-bit fields (10_state.md R38). -/
theorem State.statusWord_flags (s : State) :
    s.statusWord.getLsbD 0 = s.err ∧ s.statusWord.getLsbD 1 = s.busy ∧
      s.statusWord.getLsbD 2 = s.symValid ∧ s.statusWord.getLsbD 3 = s.symNew ∧
      s.statusWord.getLsbD 4 = s.rdEos ∧ s.statusWord.getLsbD 5 = s.inEnd ∧
      s.statusWord.getLsbD 13 = s.irq := by
  simp [State.statusWord, getElem_regField, getElem_regFlag]

/-- STATUS's wider fields, and its bits that are not listed (10_state.md R38). -/
theorem State.statusWord_fields (s : State) :
    s.statusWord.extractLsb' 6 2 = wstBits s.wst ∧ s.statusWord.extractLsb' 8 2 = s.ddrv ∧
      s.statusWord.extractLsb' 10 3 = dstBits s.dst ∧ s.statusWord.extractLsb' 14 18 = 0 := by
  simp [State.statusWord, BitVec.extractLsb'_or, extractLsb'_regField_same,
    extractLsb'_regField_beside, extractLsb'_regFlag_beside]

end Sys2Proof.Machine
end

section
/-! SUPPORT. Every operation of HBSA, HOST and INS keeps the invariant: one lemma for each operation, then
for each command, each agent's turn and the step. -/

namespace Sys2Proof.Machine

/-! ### The error record, the results and the reset -/

theorem State.Inv.setData {s : State} (hi : s.Inv) (v : Byte) : (s.setData v).Inv := by
  obtain ⟨hseq, hpack, hread, hdec, herr, -, htree⟩ := hi
  exact ⟨hseq, hpack, hread, hdec, herr, by simp [State.ResultOk], htree⟩

theorem State.Inv.setEos {s : State} (hi : s.Inv) : s.setEos.Inv := by
  obtain ⟨hseq, hpack, hread, hdec, herr, -, htree⟩ := hi
  exact ⟨hseq, hpack, hread, hdec, herr, fun _ => rfl, htree⟩

/-- Outside ERR the state has no error. -/
theorem State.Inv.err_eq_false {s : State} (hi : s.Inv) (hd : s.dst ≠ .err) : s.err = false := by
  obtain ⟨-, -, -, -, ⟨hiff, -, -⟩, -, -⟩ := hi
  simpa using mt hiff.1 hd

/-- DEC may go from one state other than ERR to another as far as WALK and LIT allow
(10_state.md R28). -/
theorem State.Inv.setDst {s : State} (hi : s.Inv) {d : Dst} (hs : s.dst ≠ .err) (hd : d ≠ .err)
    (hwalk : d = .walk → s.litCnt = 0) (hlit : d = .lit → s.litCnt < Config.litW) :
    { s with dst := d }.Inv := by
  have herr := hi.err_eq_false hs
  obtain ⟨hseq, hpack, hread, ⟨hdepth, hcnt, hcw, -, -, hfit, hzero⟩, ⟨-, hcode, hsrc⟩, hres, htree⟩ := hi
  exact ⟨hseq, hpack, hread, ⟨hdepth, hcnt, hcw, hwalk, hlit, hfit, hzero⟩,
    ⟨by simp [herr, hd], hcode, hsrc⟩, hres, htree⟩

/-- Raising an error records a code and sets DST to ERR (60_exceptions.md R232). -/
theorem State.Inv.raise {s : State} (hi : s.Inv) {c : ErrCode} (hc : c ≠ .none) (r : ErrSrc)
    (i : BitVec 16) : (s.raise c r i).Inv := by
  cases he : s.err with
  | true => rwa [State.raise_of_err he]
  | false =>
    rw [State.raise_of_ok he]
    obtain ⟨hseq, hpack, hread, ⟨hdepth, hcnt, hcw, -, -, hfit, hzero⟩, -, hres, htree⟩ := hi
    exact ⟨hseq, hpack, hread, ⟨hdepth, hcnt, hcw, nofun, nofun, hfit, hzero⟩,
      ⟨by simp, by simp [hc], nofun⟩, hres, htree⟩

/-- `Reset()` gives a state of the invariant, whatever stood before (70_reset_and_hazards.md R260). -/
theorem State.hbsaReset_inv {s : State} (h : s.tree.wf = true) : s.hbsaReset.Inv := by
  simp [State.hbsaReset, State.Inv, State.SeqsOk, State.PackerOk, State.ReaderOk, State.DecoderOk,
    State.ErrorOk, State.ResultOk, h]

theorem State.powerOn_inv {s : State} (h : s.tree.wf = true) : s.powerOn.Inv :=
  State.hbsaReset_inv h

/-! ### The sequences -/

theorem State.Inv.length_seq_le {s : State} (hi : s.Inv) (sel : Sel) :
    (s.seq sel).length ≤ Config.seqCap := by
  obtain ⟨⟨h0, h1⟩, -⟩ := hi
  cases sel
  · exact h0
  · exact h1

theorem State.Inv.setSeq {s : State} (hi : s.Inv) (sel : Sel) {v : Bits}
    (hv : v.length ≤ Config.seqCap) : (s.setSeq sel v).Inv := by
  obtain ⟨⟨h0, h1⟩, hrest⟩ := hi
  cases sel
  · exact ⟨⟨hv, h1⟩, hrest⟩
  · exact ⟨⟨h0, hv⟩, hrest⟩

/-! ### The packer -/

/-- A bit that comes in makes a value at most one bit longer. -/
theorem toNat_shiftIn_lt {v : Byte} {n : Nat} (h : v.toNat < 2 ^ n) (b : Bool) :
    (shiftIn v b).toNat < 2 ^ (n + 1) := by
  have hv : (v <<< 1).toNat < 2 ^ (n + 1) := by
    rw [BitVec.toNat_shiftLeft, Nat.shiftLeft_eq, pow_succ]
    exact (Nat.mod_le _ _).trans_lt (by omega)
  have hb : (bitByte b).toNat < 2 ^ (n + 1) := by
    have : (bitByte b).toNat < 2 := by cases b <;> decide
    exact this.trans_le (Nat.le_self_pow (by omega) 2)
  rw [shiftIn, BitVec.toNat_or]
  exact Nat.or_lt_two_pow hv hb

/-- A packer that holds no bit is in range (10_state.md R24). -/
theorem State.Inv.clearPacker {s : State} (hi : s.Inv) {w : Wst} (hw : w ≠ .flushing) (o : List Byte)
    (n : BitVec 32) : { s with wbuf := 0, wcnt := 0, wst := w, out := o, outCount := n }.Inv := by
  obtain ⟨hseq, -, hrest⟩ := hi
  exact ⟨hseq, ⟨by simp, by simp, hw, fun _ => rfl⟩, hrest⟩

/-- `WriteBit` before the flush (41_writer.md R130). -/
theorem State.Inv.writeBit {s : State} (hi : s.Inv) (hw : s.wst = .streaming) (b : Bool) :
    (s.writeBit b).Inv := by
  by_cases h7 : s.wcnt = 7
  · rw [State.writeBit_eighth h7]
    exact hi.clearPacker (by simp [hw]) _ _
  · rw [State.writeBit_held h7]
    obtain ⟨hseq, ⟨hcnt, hfit, -, -⟩, hrest⟩ := hi
    exact ⟨hseq, ⟨by simp only []; omega, toNat_shiftIn_lt hfit b, by simp [hw], by simp [hw]⟩, hrest⟩

@[simp] theorem State.writeBit_wst (s : State) (b : Bool) : (s.writeBit b).wst = s.wst := by
  obtain ⟨w, c, o, n, h⟩ := s.writeBit_frame b
  rw [h]

theorem State.Inv.writeBits {s : State} (hi : s.Inv) (hw : s.wst = .streaming) (v : Bits) :
    (s.writeBits v).Inv := by
  induction v generalizing s with
  | nil => exact hi
  | cons b v ih => exact ih (hi.writeBit hw b) (by simpa using hw)

/-- The flush leaves no bit pending (41_writer.md R134). -/
theorem State.Inv.flush {s : State} (hi : s.Inv) : s.flush.Inv := by
  obtain ⟨o, n, h⟩ := s.flush_frame
  rw [h]
  exact hi.clearPacker (by decide) o n

/-- A writing command writes before the flush and raises after it (41_writer.md R133). -/
theorem State.Inv.whileStreaming {s t : State} (hi : s.Inv) (w : Word)
    (ht : s.wst = .streaming → t.Inv) :
    (if s.wst = .streaming then t else s.raise .wrDone .cmd w).Inv := by
  split
  · exact ht ‹_›
  · exact hi.raise (by decide) _ _

/-! ### The unpacker -/

theorem State.fetchBit_rcnt_le {s : State} (h : s.rcnt ≤ 8) : s.fetchBit.rcnt ≤ 8 := by
  unfold State.fetchBit State.refill
  split
  · split
    · exact h
    · exact le_rfl
  · exact h

theorem State.readBit_rcnt_le {s : State} (h : s.rcnt ≤ 8) : s.readBit.2.rcnt ≤ 8 :=
  (Nat.sub_le _ _).trans (State.fetchBit_rcnt_le h)

/-- `ReadBit` writes the unpacker only (42_reader.md R150). -/
theorem State.Inv.readBit {s : State} (hi : s.Inv) : s.readBit.2.Inv := by
  obtain ⟨v, c, q, n, h⟩ := s.readBit_frame
  obtain ⟨hseq, hpack, hread, hrest⟩ := hi
  have hc := State.readBit_rcnt_le hread
  rw [h] at hc ⊢
  exact ⟨hseq, hpack, hc, hrest⟩

theorem State.Inv.readInto {s : State} (hi : s.Inv) (k : Nat) (v : Byte) : (s.readInto k v).2.Inv := by
  induction k generalizing s v with
  | zero => exact hi
  | succ k ih => exact ih hi.readBit _

/-- RD_BYTE drops the left-over bits before it raises (42_reader.md R153). -/
theorem State.Inv.clearRcnt {s : State} (hi : s.Inv) : { s with rcnt := 0 }.Inv := by
  obtain ⟨hseq, hpack, -, hrest⟩ := hi
  exact ⟨hseq, hpack, Nat.zero_le _, hrest⟩

@[simp] theorem State.readBit_dst (s : State) : s.readBit.2.dst = s.dst := by
  obtain ⟨v, c, q, n, h⟩ := s.readBit_frame
  rw [h]

@[simp] theorem State.readBit_depth (s : State) : s.readBit.2.depth = s.depth := by
  obtain ⟨v, c, q, n, h⟩ := s.readBit_frame
  rw [h]

/-! ### DEC -/

/-- DEC_SYM starts a codeword of no bits (43_decoder.md R171). -/
theorem State.Inv.startWalk {s : State} (hi : s.Inv) (hd : s.dst = .idle) : s.startWalk.Inv := by
  have herr := hi.err_eq_false (by simp [hd])
  obtain ⟨hseq, hpack, hread, -, ⟨-, hcode, hsrc⟩, hres, htree⟩ := hi
  exact ⟨hseq, hpack, hread,
    ⟨Nat.zero_le _, Nat.zero_le _, rfl, fun _ => rfl, nofun, by simp [State.startWalk], fun _ => rfl⟩,
    ⟨by simp [State.startWalk, herr], hcode, hsrc⟩, hres, htree⟩

/-- A symbol is delivered from a state without an error (43_decoder.md R176, R178). -/
theorem State.Inv.deliver {s : State} (hi : s.Inv) (hd : s.dst ≠ .err) (v : Byte) (isNew : Bool) :
    (s.deliver v isNew).Inv := by
  obtain ⟨hseq, hpack, hread, hdec, herr, -, htree⟩ := hi.setDst (d := .wait) hd nofun nofun nofun
  exact ⟨hseq, hpack, hread, hdec, herr, nofun, htree⟩

theorem State.Inv.endOfInput {s : State} (hi : s.Inv) (hd : s.dst ≠ .err) : s.endOfInput.Inv := by
  obtain h | h := s.endOfInput_cases <;> rw [h]
  · exact (hi.setDst (d := .done) hd nofun nofun nofun).setEos
  · exact hi.raise (by decide) _ _

/-- A walk bit lengthens the codeword and the path by one (43_decoder.md R173). -/
theorem State.Inv.descendTo {s : State} (hi : s.Inv) (hm : s.depth ≠ Config.walkMax) (n : Handle)
    (b : Bool) : { s.countBit b with node := n, depth := s.depth + 1 }.Inv := by
  obtain ⟨hseq, hpack, hread, ⟨hdepth, hcnt, hcw, hwalk, hlit, hfit, hzero⟩, hrest⟩ := hi
  refine ⟨hseq, hpack, hread, ⟨?_, hcnt, ?_, hwalk, hlit, hfit, ?_⟩, hrest⟩
  · exact Nat.lt_of_le_of_ne hdepth hm
  · simp only [State.countBit_cwBits, State.countBit_litCnt, hcw]; omega
  · intro hz
    simp only [State.countBit_cwZero, Bool.and_eq_true] at hz
    exact hzero hz.1

/-- A literal bit comes in at bit 0 of LIT, and DEC stays in LIT only while more are to come
(43_decoder.md R177). -/
theorem State.Inv.shiftLit {s : State} (hi : s.Inv) (hd : s.dst = .lit) (b : Bool) {d : Dst}
    (herr : d ≠ .err) (hwalk : d ≠ .walk) (hmore : d = .lit → s.litCnt + 1 < Config.litW) :
    { s.countBit b with lit := shiftIn s.lit b, litCnt := s.litCnt + 1, dst := d }.Inv := by
  have hok := hi.err_eq_false (by simp [hd])
  obtain ⟨hseq, hpack, hread, ⟨hdepth, -, hcw, -, hlit, hfit, hzero⟩, ⟨-, hcode, hsrc⟩, hres, htree⟩ := hi
  refine ⟨hseq, hpack, hread, ⟨hdepth, hlit hd, ?_, fun h => absurd h hwalk, hmore,
    toNat_shiftIn_lt hfit b, ?_⟩, ⟨by simp [hok, herr], hcode, hsrc⟩, hres, htree⟩
  · simp only [State.countBit_cwBits, State.countBit_depth, hcw, Nat.add_assoc]
  · intro hz
    simp only [State.countBit_cwZero, Bool.and_eq_true, Bool.not_eq_true'] at hz
    obtain ⟨hz, rfl⟩ := hz
    simp only [hzero hz]
    decide

/-- A literal bit's step: DEC stays in LIT, or delivers the literal with the eighth bit
(43_decoder.md R178). -/
theorem State.Inv.litBit {s : State} (hi : s.Inv) (hd : s.dst = .lit) (b : Bool) :
    (s.litBit b).Inv := by
  have hlit : s.litCnt < Config.litW := by
    obtain ⟨-, -, -, ⟨-, -, -, -, hlit, -, -⟩, -⟩ := hi
    exact hlit hd
  obtain ⟨hne, h⟩ | ⟨-, h⟩ := s.litBit_cases b <;> rw [h]
  · have hstay := hi.shiftLit hd b (d := .lit) nofun nofun fun _ => Nat.lt_of_le_of_ne hlit hne
    rwa [← hd] at hstay
  · obtain ⟨hseq, hpack, hread, hdec, herr, -, htree⟩ := hi.shiftLit hd b (d := .wait) nofun nofun nofun
    exact ⟨hseq, hpack, hread, hdec, herr, nofun, htree⟩

/-! ### Commands and turns -/

/-- What a command does when CMD runs it keeps the invariant. -/
theorem State.Inv.commandBody {s : State} (hi : s.Inv) (i : Instr) : (commandBody i s).Inv := by
  cases i with
  | nop => exact hi
  | srst =>
    obtain ⟨-, -, -, -, -, -, htree⟩ := hi
    exact State.hbsaReset_inv htree
  | setctrl c => exact hi
  | bsqClr sel => exact hi.setSeq sel (Nat.zero_le _)
  | bsqPush sel b =>
    simp only [Machine.commandBody]
    split
    · exact hi.raise (by decide) _ _
    · rename_i hne
      refine hi.setSeq sel ?_
      rw [List.length_append]
      exact Nat.lt_of_le_of_ne (hi.length_seq_le sel) hne
  | bsqPop sel =>
    simp only [Machine.commandBody]
    split
    · exact hi.raise (by decide) _ _
    · refine (hi.setSeq sel ?_).setData _
      rw [List.length_dropLast]
      exact (Nat.sub_le _ _).trans (hi.length_seq_le sel)
  | bsqGet sel idx =>
    simp only [Machine.commandBody]
    split
    · exact hi.raise (by decide) _ _
    · exact hi.setData _
  | bsqCopy sel => exact hi.setSeq _ (hi.length_seq_le sel)
  | bsqEmit sel => exact hi.whileStreaming _ fun hw => hi.writeBits hw _
  | wrBit b => exact hi.whileStreaming _ fun hw => hi.writeBit hw b
  | wrByte v => exact hi.whileStreaming _ fun hw => hi.writeBits hw _
  | wrFlush => exact hi.whileStreaming _ fun _ => hi.flush
  | rdBit =>
    simp only [Machine.commandBody]
    split
    · exact hi.readBit.setData _
    · exact hi.setEos
  | rdByte =>
    simp only [Machine.commandBody]
    split
    · exact (hi.readInto _ _).setData _
    · split
      · exact hi.setEos
      · exact hi.clearRcnt.raise (by decide) _ _
  | decSym =>
    simp only [Machine.commandBody]
    split
    · exact hi.startWalk ‹_›
    · exact hi.setEos
    all_goals exact hi

theorem State.Inv.takeWord {s : State} (hi : s.Inv) : s.takeWord.Inv := hi

theorem exec_inv {i : Instr} {s t : State} (hi : s.Inv) (h : exec i s = .next t) : t.Inv := by
  obtain ⟨rfl, -⟩ | ⟨-, -, rfl⟩ | ⟨-, rfl⟩ | ⟨-, -, -, rfl⟩ := exec_cases h
  · exact hi
  · exact hi.takeWord
  · exact hi.takeWord.commandBody .srst
  · exact hi.takeWord.commandBody i

theorem State.Inv.illegal {s : State} (hi : s.Inv) (w : Word) : (s.illegal w).Inv := by
  unfold State.illegal
  obtain h | ⟨-, -, h⟩ | ⟨-, -, h⟩ := s.issue_cases true fun t => t.raise .illegal .cmd w <;> rw [h]
  · exact hi
  · exact hi.takeWord
  · exact hi.takeWord.raise (by decide) _ _

theorem cmdTurn_inv {s t : State} (hi : s.Inv) (h : cmdTurn s = .next t) : t.Inv := by
  obtain ⟨-, rfl⟩ | ⟨w, -, -, -, -, rfl⟩ | ⟨-, -, i, -, -, h⟩ := cmdTurn_cases h
  · exact hi
  · exact hi.illegal w
  · exact exec_inv hi h

/-- A step of DEC keeps the invariant (43_decoder.md R173 to R179). -/
theorem decTurn_inv {s t : State} (hi : s.Inv) (h : decTurn s = .next t) : t.Inv := by
  obtain ⟨-, rfl⟩ | ⟨-, rfl⟩ | ⟨hd, rfl⟩ | ⟨hd, v, rfl⟩ | ⟨hd, -, -, rfl⟩ | ⟨-, hm, -, n, rfl⟩ |
    ⟨hd, -, rfl⟩ := decTurn_cases h
  · exact hi
  · exact hi.raise (by decide) _ _
  · have hcnt : s.litCnt = 0 := by
      obtain ⟨-, -, -, ⟨-, -, -, hwalk, -, -, -⟩, -⟩ := hi
      exact hwalk hd
    exact hi.setDst (by simp [hd]) nofun nofun fun _ => by simp [hcnt]
  · exact hi.deliver (by simp [hd]) v false
  · exact hi.endOfInput (by rcases hd with hd | hd <;> simp [hd])
  · have hgo := hi.readBit.descendTo (by simpa using hm) n s.readBit.1
    rwa [State.readBit_depth] at hgo
  · exact hi.readBit.litBit (by simpa using hd) _

/-- HOST writes no field of the invariant. -/
theorem State.Inv.hostMove {s : State} (hi : s.Inv) (m : HostMove) : (s.hostMove m).Inv := by
  obtain ⟨q, e, o, c, h⟩ := s.hostMove_frame m
  rw [h]
  exact hi

/-- INS keeps the tree canonical, and its acknowledgement takes DEC from WAIT to IDLE. -/
theorem State.Inv.insMove {s : State} (hi : s.Inv) (m : InsMove) : (s.insMove m).Inv := by
  obtain h | ⟨a, w, h⟩ | ⟨a, h⟩ | ⟨hd, h⟩ | h := s.insMove_cases m <;> rw [h]
  · exact hi
  · obtain ⟨hseq, hpack, hread, hdec, herr, hres, htree⟩ := hi
    exact ⟨hseq, hpack, hread, hdec, herr, hres, Memory.wf_write htree a w⟩
  · exact hi
  · exact hi.setDst (d := .idle) (by simp [hd]) nofun nofun nofun
  · exact hi.raise (by decide) _ _

theorem takeTurn_inv {m : Turn} {s t : State} (hi : s.Inv) (h : takeTurn m s = .next t) : t.Inv := by
  cases m with
  | cmd => exact cmdTurn_inv hi h
  | dec => exact decTurn_inv hi h
  | host m =>
    obtain rfl := Host.Outcome.next.inj h
    exact hi.hostMove m
  | ins m =>
    obtain rfl := Host.Outcome.next.inj h
    exact hi.insMove m
  | powerOn =>
    obtain rfl := Host.Outcome.next.inj h
    obtain ⟨-, -, -, -, -, -, htree⟩ := hi
    exact State.powerOn_inv htree

/-- Settles O9: each agent's turn keeps the invariant, which no field of the model's own enters. -/
theorem stepKeepsTheInvariant : Obligations.StepKeepsTheInvariant := by
  intro s t hi h
  obtain ⟨-, n, h⟩ | ⟨-, n, h⟩ | ⟨m, ts, -, h⟩ := step_cases h
  · exact cmdTurn_inv (s := { s with freeUsed := n }) hi h
  · exact decTurn_inv (s := { s with freeUsed := n }) hi h
  · exact takeTurn_inv (s := { s with sched := ts }) hi h

end Sys2Proof.Machine
end

section
/-! SUPPORT. The statements about the step, the command port, CTRL, the sequences and the registers,
settled from the lemmas above. -/

namespace Sys2Proof.Machine

/-- Settles O6: a listed turn is run, and with none listed the enabled agent's. -/
theorem stepRunsTheDecodedCommand : Obligations.StepRunsTheDecodedCommand := by
  intro s
  have hcmd (hs : s.sched = []) (he : s.decEnabled = false) : step s = cmdTurn s :=
    (step_auto hs).trans (autoTurn_of_not_decEnabled he)
  refine ⟨fun w ws hq => ⟨fun i hd => ⟨fun hs he => ?_, fun ts hs => ?_⟩,
      fun e hd => ⟨fun hs he => ?_, fun ts hs => ?_⟩⟩,
    fun hq => ⟨fun hs he => ?_, fun ts hs => ?_⟩, fun ts hs => step_listed hs,
    fun m ts hs => step_listed hs, fun m ts hs => step_listed hs, fun ts hs => step_listed hs,
    fun hs he => ⟨fun hq => ?_, fun ws hq => ?_⟩, step_completes s⟩
  · exact (hcmd hs he).trans (cmdTurn_ok hq hd)
  · exact (step_listed hs).trans (cmdTurn_ok hq hd)
  · exact (hcmd hs he).trans (cmdTurn_illegal hq hd)
  · exact (step_listed hs).trans (cmdTurn_illegal hq hd)
  · exact (hcmd hs he).trans (cmdTurn_nil hq)
  · exact (step_listed hs).trans (cmdTurn_nil hq)
  · have hw : s.srstWaits = false := by
      rw [← Bool.not_eq_true, s.srstWaits_iff]
      exact not_exists.2 hq
    exact (step_auto hs).trans (autoTurn_of_decEnabled he hw)
  · rw [step_auto hs, ← cmdTurn_srst (s := { s with freeUsed := s.freeUsed + 1 }) hq]
    exact autoTurn_of_srstWaits he (s.srstWaits_iff.2 ⟨ws, hq⟩)

/-- Settles O14: a busy DEC holds every word but SRST, which its enqueueing brings to the head. -/
theorem busyDecoderHoldsTheCommandPort : Obligations.BusyDecoderHoldsTheCommandPort := by
  intro s w ws hq
  refine ⟨fun hd hw => cmdTurn_busy hq (s.busy_iff.2 hd) hw, fun hd => ?_, fun hw => ?_⟩
  · have henq : s.hostMove (.issue 0x0800#16) = { s with cmdq := 0x0800#16 :: s.cmdq } :=
      State.enqueue_srst (s.busy_iff.2 hd)
    rw [henq]
    exact ⟨_, cmdTurn_srst rfl, rfl, hq, rfl⟩
  · subst hw
    exact ⟨_, cmdTurn_srst hq, by simp [State.hbsaReset, hq], rfl⟩

/-- Settles O15: of what a command can do, only holding leaves its word on the port. -/
theorem cmdIndexCountsTheWordsTaken : Obligations.CmdIndexCountsTheWordsTaken := by
  intro i s t h
  obtain ⟨ht, hwait⟩ | ⟨-, -, rfl⟩ | ⟨-, rfl⟩ | ⟨-, -, -, rfl⟩ := exec_cases h
  · exact .inl ⟨ht, hwait.imp_right commandEnabled_eq_false⟩
  · exact .inr ⟨rfl, rfl⟩
  · exact .inr ⟨rfl, rfl⟩
  · obtain ⟨hport, -⟩ := commandBody_frame i s.takeWord
    exact .inr hport

/-- Settles O17: of all the turns, CMD's and power-on reset alone can change CTRL. -/
theorem onlySetctrlAndResetWriteCtrl : Obligations.OnlySetctrlAndResetWriteCtrl := by
  intro s t h hc
  obtain ⟨hs, n, h⟩ | ⟨-, n, h⟩ | ⟨m, ts, hs, h⟩ := step_cases h
  · exact .inr ⟨.inl hs, cmdTurn_ctrl (s := { s with freeUsed := n }) h hc⟩
  · exact absurd (decTurn_ctrl h) hc
  · cases m with
    | cmd => exact .inr ⟨.inr ⟨ts, hs⟩, cmdTurn_ctrl (s := { s with sched := ts }) h hc⟩
    | dec => exact absurd (decTurn_ctrl h) hc
    | host m =>
      obtain rfl := Host.Outcome.next.inj h
      exact absurd (State.hostMove_ctrl _ m) hc
    | ins m =>
      obtain rfl := Host.Outcome.next.inj h
      exact absurd (State.insMove_ctrl _ m) hc
    | powerOn => exact .inl ⟨ts, hs⟩

/-- Settles O26: after the copy both registers hold the source's bits, and a command on one leaves the
other. -/
theorem copiedSequencesAreIndependent : Obligations.CopiedSequencesAreIndependent := by
  intro src sel b s t u hs hcopy hu
  have ht : t.seq sel.other = s.seq src := by
    rw [exec_runs hs rfl, Host.Outcome.next.injEq] at hcopy
    rw [← hcopy, ← s.seq_takeWord]
    exact s.takeWord.seq_setSeq_copy src sel.other
  rw [← ht]
  obtain hu | hu | hu := hu
  · exact exec_seq_other (.inl ⟨b, rfl⟩) hu
  · exact exec_seq_other (.inr (.inl rfl)) hu
  · exact exec_seq_other (.inr (.inr rfl)) hu

/-- Settles O37: the three predicates split the states by whether bits are left and, if none, by IN_END. -/
theorem readerPredicatesAreExclusive : Obligations.ReaderPredicatesAreExclusive := by
  intro s
  refine ⟨s.bitAvail_iff_rcnt_or_inq, s.rdEos_iff, s.rdWait_iff, rfl, s.length_pendingBits.symm, ?_⟩
  cases hb : s.bitAvail with
  | true => simp [State.rdWait, hb, State.rdEos_eq_false_of_bitAvail hb]
  | false => cases he : s.rdEos <;> simp [State.rdWait, hb, he]

/-- Settles O57, from the flags and the fields of the STATUS word. -/
theorem statusFields : Obligations.StatusFields := by
  intro s
  obtain ⟨herr, hbusy, hvalid, hnew, heos, hend, hirq⟩ := s.statusWord_flags
  obtain ⟨hwst, hddrv, hdst, hzero⟩ := s.statusWord_fields
  refine ⟨herr, ?_, hvalid, hnew, heos, hend, hwst ▸ wstNumber_wstBits s.wst, ?_,
    hdst ▸ dstNumber_dstBits s.dst, hirq, hzero⟩
  · rw [s.regRead_status, hbusy, Bool.eq_iff_iff, s.busy_iff, decide_eq_true_iff]
  · rw [s.regRead_status, hddrv]
    simp [State.ddrv]

/-- Settles O58: the fields of each word, and the invariant's ranges, in which each count fits. -/
theorem registerFields : Obligations.RegisterFields := by
  intro s hi
  obtain ⟨⟨hseq0, hseq1⟩, ⟨hwcnt, -⟩, hrcnt, ⟨hdepth, hlitCnt, hcw, -⟩, -⟩ := hi
  obtain ⟨hcode, hsrc, herr0, hinfo⟩ := s.errWord_fields
  obtain ⟨hwbuf, hwc, hwr11, hwst, hwr0⟩ := s.wrStateWord_fields
  obtain ⟨hrbuf, hrc, hrdFields⟩ := s.rdStateWord_fields
  obtain ⟨hdst, hzero, hbits, hdecFields⟩ := s.decStateWord_fields
  obtain ⟨hdep, haux0, hlc, hauxFields⟩ := s.decAuxWord_fields
  have hcwBits : s.cwBits ≤ Config.walkMax + Config.litW := hcw ▸ Nat.add_le_add hdepth hlitCnt
  refine ⟨⟨hcode ▸ errCodeNumber_errCodeBits _, hsrc ▸ errSrcNumber_errSrcBits _, herr0, hinfo⟩,
    s.resultWord_fields, toNat_regField_count (by decide) (hseq0.trans_lt (by decide)),
    toNat_regField_count (by decide) (hseq1.trans_lt (by decide)),
    ⟨hwbuf, ?_, hwr11, hwst ▸ wstNumber_wstBits _, hwr0⟩, ⟨hrbuf, ?_, hrdFields⟩,
    ⟨hdst ▸ dstNumber_dstBits _, hzero, ?_, hdecFields⟩, s.symWord_fields, rfl, rfl, rfl, ?_, rfl,
    ⟨?_, haux0, ?_, hauxFields⟩, rfl⟩
  · exact hwc ▸ toNat_ofNat_of_fits hwcnt
  · exact hrc ▸ toNat_ofNat_of_fits (hrcnt.trans_lt (by decide))
  · exact hbits ▸ toNat_ofNat_of_fits (hcwBits.trans_lt (by decide))
  · exact ⟨extractLsb'_regField_same s.ctrl (by decide),
      extractLsb'_regField_beside s.ctrl (by decide)⟩
  · exact hdep ▸ toNat_ofNat_of_fits (hdepth.trans_lt (by decide))
  · exact hlc ▸ toNat_ofNat_of_fits (hlitCnt.trans_lt (by decide))

end Sys2Proof.Machine
end

section
/-! SUPPORT. The streams and the tree space (20_memory.md): bytes appended to OUT, HOST's port moves, INS's
window for tree writes, and the statements about them. -/

namespace Sys2Proof.Machine

/-! ### Bytes appended to OUT -/

/-- `t` has the OUT of `s` with some bytes appended, and OUT_COUNT counts them (20_memory.md R64). -/
def AppendsOut (s t : State) : Prop :=
  ∃ bs : List Byte, t.out = s.out ++ bs ∧ t.outCount = s.outCount + BitVec.ofNat 32 bs.length

/-- A step that leaves OUT and OUT_COUNT appends no byte. -/
theorem AppendsOut.of_sameOut {s t : State} (h : SameOut s t) : AppendsOut s t := by
  obtain ⟨hout, hcount⟩ := h
  exact ⟨[], by simp [hout], by simp [hcount]⟩

theorem AppendsOut.trans {s t u : State} (hst : AppendsOut s t) (htu : AppendsOut t u) :
    AppendsOut s u := by
  obtain ⟨bs, hout, hcount⟩ := hst
  obtain ⟨bs', hout', hcount'⟩ := htu
  refine ⟨bs ++ bs', by rw [hout', hout, List.append_assoc], ?_⟩
  rw [hcount', hcount, BitVec.add_assoc, ← BitVec.ofNat_add, List.length_append]

theorem State.emitByte_appendsOut (s : State) (v : Byte) : AppendsOut s (s.emitByte v) :=
  ⟨[v], rfl, rfl⟩

/-- `WriteBit` appends a byte with the eighth bit and none before (41_writer.md R130). -/
theorem State.writeBit_appendsOut (s : State) (b : Bool) : AppendsOut s (s.writeBit b) := by
  by_cases h : s.wcnt = 7
  · rw [State.writeBit_eighth h]
    exact s.emitByte_appendsOut _
  · rw [State.writeBit_held h]
    exact .of_sameOut ⟨rfl, rfl⟩

theorem State.writeBits_appendsOut (s : State) (v : Bits) : AppendsOut s (s.writeBits v) := by
  induction v generalizing s with
  | nil => exact .of_sameOut ⟨rfl, rfl⟩
  | cons b v ih => exact (s.writeBit_appendsOut b).trans (ih (s.writeBit b))

/-- The flush appends the padded byte, if bits are held (41_writer.md R134). -/
theorem State.flush_appendsOut (s : State) : AppendsOut s s.flush := by
  unfold State.flush
  split
  · exact s.emitByte_appendsOut _
  · exact .of_sameOut ⟨rfl, rfl⟩

/-- A writing command appends its bytes while the stream is open, and after the flush its error appends
none (41_writer.md R133). -/
theorem AppendsOut.whileStreaming {s t : State} (h : AppendsOut s t) (w : Word) :
    AppendsOut s (if s.wst = .streaming then t else s.raise .wrDone .cmd w) := by
  split
  · exact h
  · exact .of_sameOut ⟨s.raise_out _ _ _, s.raise_outCount _ _ _⟩

/-- The body of a command other than WR_BIT, WR_BYTE, WR_FLUSH, BSQ_EMIT and SRST leaves OUT and its
count (20_memory.md R64). -/
theorem commandBody_sameOut {i : Instr} (s : State) (hbit : ∀ b, i ≠ .wrBit b)
    (hbyte : ∀ v, i ≠ .wrByte v) (hflush : i ≠ .wrFlush) (hemit : ∀ sel, i ≠ .bsqEmit sel)
    (hsrst : i ≠ .srst) : SameOut s (commandBody i s) := by
  unfold SameOut
  cases i with
  | srst => exact absurd rfl hsrst
  | bsqEmit sel => exact absurd rfl (hemit sel)
  | wrBit b => exact absurd rfl (hbit b)
  | wrByte v => exact absurd rfl (hbyte v)
  | wrFlush => exact absurd rfl hflush
  | nop | setctrl | bsqClr | bsqCopy => simp [commandBody]
  | bsqPush | bsqPop | bsqGet => simp only [commandBody]; split <;> simp
  | rdBit =>
    obtain ⟨v, c, q, n, h⟩ := s.readBit_frame
    simp only [commandBody, h]; split <;> simp
  | rdByte =>
    obtain ⟨v, c, q, n, h⟩ := s.readInto_frame 8 0#8
    simp only [commandBody, h]
    split
    · simp
    · split <;> simp
  | decSym => simp only [commandBody]; split <;> simp [State.startWalk]

/-- The body of a command other than SRST only appends to OUT: the four writers through the packer, the
others nothing. -/
theorem commandBody_appendsOut {i : Instr} (hi : i ≠ .srst) (s : State) :
    AppendsOut s (commandBody i s) := by
  cases i with
  | bsqEmit sel => exact (s.writeBits_appendsOut (s.seq sel)).whileStreaming _
  | wrBit b => exact (s.writeBit_appendsOut b).whileStreaming _
  | wrByte v => exact (s.writeBits_appendsOut (byteBits v)).whileStreaming _
  | wrFlush => exact s.flush_appendsOut.whileStreaming _
  | _ => exact .of_sameOut (commandBody_sameOut s (by simp) (by simp) (by simp) (by simp) hi)

/-- Whatever CMD does with a command other than SRST, OUT is only appended to and OUT_COUNT counts it. -/
theorem exec_appendsOut {i : Instr} {s t : State} (hi : i ≠ .srst) (h : exec i s = .next t) :
    AppendsOut s t := by
  obtain ⟨rfl, -⟩ | ⟨-, -, rfl⟩ | ⟨rfl, -⟩ | ⟨-, -, -, rfl⟩ := exec_cases h
  · exact .of_sameOut ⟨rfl, rfl⟩
  · exact .of_sameOut ⟨rfl, rfl⟩
  · exact absurd rfl hi
  · exact commandBody_appendsOut hi s.takeWord

/-- Settles O32: SRST leaves OUT and resets its count, every other command appends, and OUT is not DEC's. -/
theorem outIsOnlyAppendedTo : Obligations.OutIsOnlyAppendedTo := by
  refine ⟨fun i s t h => ?_, fun s t h => ?_⟩
  · by_cases hi : i = .srst
    · subst hi
      obtain rfl := Host.Outcome.next.inj h
      exact ⟨[], (List.append_nil _).symm, fun hn => absurd rfl hn⟩
    · obtain ⟨bs, hout, hcount⟩ := exec_appendsOut hi h
      exact ⟨bs, hout, fun _ => hcount⟩
  · obtain ⟨-, -, hout, -⟩ := decTurn_frame h
    exact hout

/-! ### The tree and the command port -/

/-- Settles O16: a command leaves the port or takes its head, and neither a command's body nor a step of
DEC writes the tree. -/
theorem hbsaWritesNoTreeAndNoCommandWord : Obligations.HbsaWritesNoTreeAndNoCommandWord := by
  refine ⟨fun i s t h => ?_, fun s t h => ?_⟩
  · obtain ⟨rfl, -⟩ | ⟨-, -, rfl⟩ | ⟨-, rfl⟩ | ⟨-, -, -, rfl⟩ := exec_cases h
    · exact ⟨⟨fun _ => rfl, rfl⟩, .inl rfl⟩
    · exact ⟨⟨fun _ => rfl, rfl⟩, .inr rfl⟩
    · exact ⟨⟨fun _ => rfl, rfl⟩, .inr rfl⟩
    · obtain ⟨⟨hcmdq, -⟩, htree, -⟩ := commandBody_frame i s.takeWord
      exact ⟨htree, .inr hcmdq⟩
  · obtain ⟨-, -, -, -, hport, htree, -⟩ := decTurn_frame h
    exact ⟨htree, hport⟩

/-- INS has a write step iff DST is neither WALK nor LIT (20_memory.md R76). -/
theorem State.insMayWrite_iff (s : State) :
    s.insMayWrite = true ↔ s.dst ≠ .walk ∧ s.dst ≠ .lit := by
  cases h : s.dst <;> simp [State.insMayWrite, h]

/-- Inside the window INS writes T and TROOT (20_memory.md R76). -/
theorem State.insMove_in_window {s : State} (h : s.insMayWrite = true) (a : Handle) (w : NodeWord) :
    s.insMove (.write a w) = { s with tree := s.tree.write a w } ∧
      s.insMove (.setRoot a) = { s with troot := a } := by
  simp [State.insMove, h]

/-- Outside the window a write turn of INS passes (log 6). -/
theorem State.insMove_outside_window {s : State} (h : s.insMayWrite = false) (a : Handle)
    (w : NodeWord) : s.insMove (.write a w) = s ∧ s.insMove (.setRoot a) = s := by
  simp [State.insMove, h]

/-- Settles O56: the window is DST outside WALK and LIT, and a write there is a write of the tree space. -/
theorem treeWritesOnlyInTheWindow : Obligations.TreeWritesOnlyInTheWindow := by
  intro s h w
  refine ⟨fun hd => ?_, fun hwalk hlit => ?_⟩
  · have hclosed : s.insMayWrite = false := by
      rw [← Bool.not_eq_true, s.insMayWrite_iff]
      exact fun ⟨hwalk, hlit⟩ => hd.elim hwalk hlit
    exact State.insMove_outside_window hclosed h w
  · obtain ⟨htree, hroot⟩ := State.insMove_in_window (s.insMayWrite_iff.2 ⟨hwalk, hlit⟩) h w
    exact ⟨⟨s.tree.write h w, htree, s.tree.read_write_same h w,
      fun k hk => s.tree.read_write_other w hk⟩, hroot⟩

/-! ### HOST's moves -/

/-- While IN_END = 0 `host_push` appends its byte to INQ (20_memory.md R63). -/
theorem State.hostMove_push {s : State} (h : s.inEnd = false) (v : Byte) :
    s.hostMove (.push v) = { s with inq := s.inq ++ [v] } := by
  simp [State.hostMove, h]

/-- After `host_end` a `host_push` is dropped (20_memory.md R63). -/
theorem State.hostMove_push_ended {s : State} (h : s.inEnd = true) (v : Byte) :
    s.hostMove (.push v) = s := by
  simp [State.hostMove, h]

/-- A byte at INQ's tail adds its bits at the end of the stream (10_state.md R26). -/
theorem State.pendingBits_inq_append (s : State) (v : Byte) :
    { s with inq := s.inq ++ [v] }.pendingBits = s.pendingBits ++ byteBits v := by
  simp [State.pendingBits]

/-- Settles O43: each move of HOST by its own rule. -/
theorem inputPortMoves : Obligations.InputPortMoves := by
  intro s v
  refine ⟨fun w hw => State.enqueue_tail hw, fun hb => State.enqueue_srst hb,
    fun he => ⟨State.hostMove_push he v, ?_⟩, fun he => State.hostMove_push_ended he v, rfl, rfl,
    fun n => rfl, fun taken left hout => ?_⟩
  · rw [State.hostMove_push he, s.pendingBits_inq_append]
  · calc s.out.drop taken.length = (taken ++ left).drop taken.length := by rw [hout]
      _ = left := List.drop_left

/-- Settles O59: the read uses up its turn alone, and no register shows the list of turns. -/
theorem registerReadsHaveNoEffect : Obligations.RegisterReadsHaveNoEffect :=
  fun _ _ _ hs => ⟨step_listed hs, rfl⟩

end Sys2Proof.Machine
end

section
/-! SUPPORT. Encoding (30_encoding.md): the opcode alone tells the table's rows apart, so a word selects at
most one of them; and a selected row's command encodes to its match and the word's operand bits, which
together are the word. -/

namespace Sys2Proof.Machine

/-! ### The opcode tells the rows apart -/

theorem rowMatches_iff (w : Word) (r : OpcodeRow) : rowMatches w r = true ↔ w &&& r.mask = r.pattern :=
  beq_iff_eq

/-- Every mask of the table covers all of OPC (30_encoding.md R84). -/
theorem opcOf_mask {r : OpcodeRow} (hr : r ∈ opcodeTable) : opcOf r.mask = BitVec.allOnes 5 := by
  revert r; decide

/-- A word that selects a row has the row's opcode. -/
theorem opcOf_eq_of_rowMatches {w : Word} {r : OpcodeRow} (hr : r ∈ opcodeTable)
    (h : rowMatches w r = true) : opcOf w = opcOf r.pattern := by
  calc opcOf w = opcOf w &&& opcOf r.mask := by rw [opcOf_mask hr, BitVec.and_allOnes]
    _ = opcOf (w &&& r.mask) := BitVec.extractLsb'_and.symm
    _ = opcOf r.pattern := by rw [(rowMatches_iff w r).1 h]

/-- The 15 opcodes of the table are distinct (30_encoding.md R84). -/
theorem nodup_opcodes : (opcodeTable.map fun r => opcOf r.pattern).Nodup := by decide

/-- A word selects at most one row (30_encoding.md R85). -/
theorem row_unique {w : Word} {r r' : OpcodeRow} (hr : r ∈ opcodeTable) (hr' : r' ∈ opcodeTable)
    (h : rowMatches w r = true) (h' : rowMatches w r' = true) : r = r' :=
  List.inj_on_of_nodup_map nodup_opcodes hr hr'
    ((opcOf_eq_of_rowMatches hr h).symm.trans (opcOf_eq_of_rowMatches hr' h'))

/-! ### The decoder -/

/-- A word that selects a row decodes to the command the row builds (30_encoding.md R85). -/
theorem decode_of_rowMatches {w : Word} {r : OpcodeRow} (hr : r ∈ opcodeTable)
    (h : rowMatches w r = true) : decode w = .ok (r.build w) := by
  obtain ⟨r', hf⟩ := Option.isSome_iff_exists.1 (List.find?_isSome.2 ⟨r, hr, h⟩)
  obtain rfl : r' = r := row_unique (List.mem_of_find?_eq_some hf) hr (List.find?_some hf) h
  simp [decode, hf]

theorem opcodeListed_iff (w : Word) :
    opcodeListed w = true ↔ ∃ r ∈ opcodeTable, opcOf w = opcOf r.pattern := by
  simp only [opcodeListed, List.any_eq_true, beq_iff_eq]

/-- A word whose opcode is not in the table is illegal for that reason (30_encoding.md R85, R86). -/
theorem decode_of_not_opcodeListed {w : Word} (h : ¬ opcodeListed w = true) :
    decode w = .error .reservedOpcode := by
  have hnone : opcodeTable.find? (rowMatches w) = none :=
    List.find?_eq_none.2 fun r hr hm =>
      h ((opcodeListed_iff w).2 ⟨r, hr, opcOf_eq_of_rowMatches hr hm⟩)
  simp [decode, hnone, h]

/-- The opcodes R86 reserves are none of the table's. -/
theorem reserved_ne_opcOf_pattern {r : OpcodeRow} (hr : r ∈ opcodeTable) :
    ∀ o : BitVec 5, (o ∈ [0x03#5, 0x0A#5, 0x0B#5, 0x0F#5, 0x12#5, 0x13#5] ∨ 0x15#5 ≤ o) →
      o ≠ opcOf r.pattern := by
  revert r; decide

/-- A well-formed command's word selects the row that builds the command (30_encoding.md R84, R89). -/
theorem encode_selectsRow (i : Instr) : Laws.SelectsRow.Statement i := by
  cases i with
  | nop => exact Laws.SelectsRow.nop
  | srst => exact Laws.SelectsRow.srst
  | setctrl c => exact Laws.SelectsRow.setctrl c
  | bsqClr s => exact Laws.SelectsRow.bsqClr s
  | bsqPush s b => exact Laws.SelectsRow.bsqPush s b
  | bsqPop s => exact Laws.SelectsRow.bsqPop s
  | bsqGet s idx => exact Laws.SelectsRow.bsqGet s idx
  | bsqCopy s => exact Laws.SelectsRow.bsqCopy s
  | bsqEmit s => exact Laws.SelectsRow.bsqEmit s
  | wrBit b => exact Laws.SelectsRow.wrBit b
  | wrByte v => exact Laws.SelectsRow.wrByte v
  | wrFlush => exact Laws.SelectsRow.wrFlush
  | rdBit => exact Laws.SelectsRow.rdBit
  | rdByte => exact Laws.SelectsRow.rdByte
  | decSym => exact Laws.SelectsRow.decSym

/-! ### A field read from a word and put back in place is the word under the field's bits -/

/-- A field of `n` bits from bit 0. -/
theorem setWidth_extractLsb'_zero (w : Word) (n : Nat) :
    (w.extractLsb' 0 n).setWidth 16 = w &&& (BitVec.allOnes n).setWidth 16 := by
  ext i hi
  simp [BitVec.getLsbD_eq_getElem hi, Bool.and_comm]

@[simp] theorem setWidth_ctrl3Of (w : Word) : (ctrl3Of w).setWidth 16 = w &&& 0x0007#16 :=
  setWidth_extractLsb'_zero w 3

@[simp] theorem setWidth_imm8Of (w : Word) : (imm8Of w).setWidth 16 = w &&& 0x00FF#16 :=
  setWidth_extractLsb'_zero w 8

@[simp] theorem setWidth_idxOf (w : Word) : (BitVec.ofNat 9 (idxOf w)).setWidth 16 = w &&& 0x01FF#16 := by
  rw [idxOf, BitVec.ofNat_toNat, BitVec.setWidth_eq]
  exact setWidth_extractLsb'_zero w 9

@[simp] theorem selField_selOf (w : Word) : selField (selOf w) = w &&& 0x0400#16 := by
  rw [show 0x0400#16 = BitVec.twoPow 16 10 from rfl, BitVec.and_twoPow]
  unfold selField selOf
  cases w.getLsbD 10 <;> rfl

@[simp] theorem bitField_bitOf (w : Word) : bitField (bitOf w) = w &&& 0x0001#16 := by
  rw [show 0x0001#16 = BitVec.twoPow 16 0 from rfl, BitVec.and_twoPow]
  unfold bitField bitOf
  cases w.getLsbD 0 <;> rfl

/-- The index of BSQ_GET is read from nine bits (30_encoding.md R83). -/
theorem idxOf_lt (w : Word) : idxOf w < 512 := (w.extractLsb' 0 9).isLt

/-- The row's command encodes to the row's match and the word's bits outside the mask, since the operand
fields together are what the mask leaves out: "match | field bits" (30_encoding.md R82, R89). -/
theorem encode_build {r : OpcodeRow} (hr : r ∈ opcodeTable) (w : Word) :
    encode (r.build w) = r.pattern ||| w &&& ~~~r.mask := by
  simp only [opcodeTable, List.mem_cons, List.not_mem_nil, or_false] at hr
  rcases hr with rfl | rfl | rfl | rfl | rfl | rfl | rfl | rfl | rfl | rfl | rfl | rfl | rfl | rfl | rfl
  all_goals simp [encode, BitVec.or_assoc, ← BitVec.and_or_distrib_left]

/-- A row builds only well-formed commands. -/
theorem wellFormed_build {r : OpcodeRow} (hr : r ∈ opcodeTable) (w : Word) :
    (r.build w).wellFormed = true := by
  revert r
  simp [opcodeTable, Instr.wellFormed, idxOf_lt]

/-- A word is its bits under a mask and its bits outside it. -/
theorem and_or_and_not (w m : Word) : w &&& m ||| w &&& ~~~m = w := by
  rw [← BitVec.and_or_distrib_left, BitVec.or_not_self, BitVec.and_allOnes]

/-! ### A command's error -/

/-- CMD takes the word and raises: the record is written, and all else but DST stays (60_exceptions.md
R232, R233). -/
theorem State.takeWord_raise_commandRaised {s : State} (h : s.err = false) (c : ErrCode)
    (i : BitVec 16) : CommandRaised s (s.takeWord.raise c .cmd i) c i := by
  rw [State.raise_of_ok (s := s.takeWord) h]
  and_intros
  all_goals intros; rfl

/-! ### The obligations -/

/-- Settles O2: the command's word selects a row that builds the command, and decode takes that row. -/
theorem decodeOfEncodeIsTheCommand : Obligations.DecodeOfEncodeIsTheCommand := by
  intro i hi
  obtain ⟨r, hr, hm, hb⟩ := encode_selectsRow i hi
  rw [decode_of_rowMatches hr hm, hb]

/-- Settles O3: the word is its row's match under the mask and its command's operands elsewhere. -/
theorem encodeOfDecodeIsTheWord : Obligations.EncodeOfDecodeIsTheWord := by
  intro w i h
  obtain ⟨r, hr, hm, rfl⟩ := decode_ok h
  refine ⟨?_, wellFormed_build hr w⟩
  calc encode (r.build w) = r.pattern ||| w &&& ~~~r.mask := encode_build hr w
    _ = w &&& r.mask ||| w &&& ~~~r.mask := by rw [(rowMatches_iff w r).1 hm]
    _ = w := and_or_and_not w r.mask

/-- Settles O4: the opcode tells the rows apart, and decode answers exactly the selected row. -/
theorem everyWordIsOneCommandOrIllegal : Obligations.EveryWordIsOneCommandOrIllegal := by
  intro w
  simp only [← rowMatches_iff]
  refine ⟨fun r hr r' hr' h h' => by rw [row_unique hr hr' h h'], fun ⟨i, hi⟩ => ?_,
    fun ⟨r, hr, hm⟩ => ⟨_, decode_of_rowMatches hr hm⟩⟩
  obtain ⟨r, hr, hm, -⟩ := decode_ok hi
  exact ⟨r, hr, hm⟩

/-- Settles O5: a reserved opcode is not one the table lists. -/
theorem reservedOpcodesAreIllegal : Obligations.ReservedOpcodesAreIllegal := by
  intro w hw
  refine decode_of_not_opcodeListed fun hl => ?_
  obtain ⟨r, hr, ho⟩ := (opcodeListed_iff w).1 hl
  exact reserved_ne_opcOf_pattern hr (opcOf w) hw ho

/-- Settles O1, by running the decoder on each word. -/
theorem workedWordsDecode : Obligations.WorkedWordsDecode := by
  unfold Obligations.WorkedWordsDecode
  decide

/-- Settles O10: CMD takes the word and raises E_ILLEGAL, which changes the error record and DST only. -/
theorem illegalWordRaisesIllegal : Obligations.IllegalWordRaisesIllegal := by
  intro s w ws e hq hd hr
  refine ⟨s.takeWord.raise .illegal .cmd w, ?_, State.takeWord_raise_commandRaised hr.2 _ _⟩
  rw [cmdTurn_illegal hq hd, State.illegal, State.issue_runs hr rfl]

end Sys2Proof.Machine
end

section
/-! SUPPORT. The accumulator (40_bitsequence.md): the words of its commands, what a command that runs
leaves alone, the stream the packer produces, and the statements about BSQ_CLR to BSQ_EMIT. -/

namespace Sys2Proof.Machine

/-! ### The words of the commands -/

/-- The words of the commands whose one operand is `s`: the match `p` under the mask, and the selector in
bit 10 (30_encoding.md R83, R84). -/
theorem selector_word {p : Word} (hp : p &&& 0xFBFF#16 = p) (sel : Sel) :
    (p ||| selField sel) &&& 0xFBFF#16 = p ∧ selOf (p ||| selField sel) = sel := by
  have hmask : selField sel &&& 0xFBFF#16 = 0#16 := by cases sel <;> rfl
  have hbit : p.getLsbD 10 = false := by
    rw [← hp, BitVec.getLsbD_and, show (0xFBFF#16).getLsbD 10 = false from rfl, Bool.and_false]
  constructor
  · rw [BitVec.and_comm, BitVec.and_or_distrib_left, BitVec.and_comm _ p, hp, BitVec.and_comm, hmask,
      BitVec.or_zero]
  · rw [selOf, BitVec.getLsbD_or, hbit, Bool.false_or]
    cases sel <;> rfl

/-- A BSQ_PUSH word holds its selector and its bit (30_encoding.md R83). -/
theorem bsqPush_word (sel : Sel) (b : Bool) :
    EncodedAs (.bsqPush sel b) 0xFBFE 0x2800 ∧ selOf (encode (.bsqPush sel b)) = sel ∧
      bitOf (encode (.bsqPush sel b)) = b := by
  cases sel <;> cases b <;> decide

/-- A BSQ_GET word holds its selector, and its index where nine bits hold it (30_encoding.md R83). -/
theorem bsqGet_word (sel : Sel) (idx : Nat) :
    EncodedAs (.bsqGet sel idx) 0xFA00 0x3800 ∧ selOf (encode (.bsqGet sel idx)) = sel ∧
      (idx < 512 → idxOf (encode (.bsqGet sel idx)) = idx) := by
  have hword : encode (.bsqGet sel (BitVec.ofNat 9 idx).toNat) = encode (.bsqGet sel idx) := by
    simp only [encode, BitVec.ofNat_toNat, BitVec.setWidth_eq]
  obtain ⟨hrow, hbuild⟩ := Laws.SelectsRow.bsqGet_word sel (BitVec.ofNat 9 idx)
  rw [hword] at hrow hbuild
  injection hbuild with hsel hidx
  exact ⟨(rowMatches_iff _ _).1 hrow, hsel, fun h => hidx.trans (toNat_ofNat_of_fits h)⟩

/-! ### Commands that run -/

/-- DEC's state and ERR decide whether CMD runs a command. -/
theorem State.Runs.of_same {s t : State} (hr : s.Runs) (hd : t.dst = s.dst) (he : t.err = s.err) :
    t.Runs := by
  obtain ⟨hbusy, herr⟩ := hr
  refine ⟨?_, he.trans herr⟩
  rw [← hbusy, State.busy, State.busy, hd]

/-- A command that runs, other than SETCTRL and SRST, completes as its body says and leaves the tree, the
order and CTRL (10_state.md R33, R35). -/
theorem exec_runs_framed {i : Instr} {s t : State} (hr : s.Runs) (he : commandEnabled i s = true)
    (hb : commandBody i s.takeWord = t) (hs : i ≠ .srst) (hc : ∀ c, i ≠ .setctrl c) :
    exec i s = .next t ∧ CommandFrame s t := by
  obtain ⟨hport, htree, horder, hctrl⟩ := commandBody_frame i s.takeWord
  subst hb
  exact ⟨exec_runs hr he, hport, htree, horder, hctrl hs hc⟩

/-- A command whose body raises records the error with its word and changes nothing else
(60_exceptions.md R232, R233). -/
theorem exec_raises {i : Instr} {s : State} {c : ErrCode} (hr : s.Runs)
    (he : commandEnabled i s = true)
    (hb : commandBody i s.takeWord = s.takeWord.raise c .cmd (encode i)) :
    ∃ t, exec i s = .next t ∧ CommandRaised s t c (encode i) :=
  ⟨_, hb ▸ exec_runs hr he, State.takeWord_raise_commandRaised hr.2 c _⟩

/-- A write of one sequence leaves the other units and RESULT (40_bitsequence.md R101). -/
theorem State.setSeq_sameUnits (s : State) (sel : Sel) (v : Bits) :
    SamePacker s (s.setSeq sel v) ∧ SameOut s (s.setSeq sel v) ∧ SameReader s (s.setSeq sel v) ∧
      SameDecoder s (s.setSeq sel v) ∧ SameErrors s (s.setSeq sel v) ∧
      (s.setSeq sel v).result = s.result := by
  cases sel
  all_goals
    and_intros
    all_goals rfl

/-- A command whose body writes one sequence does that and leaves everything else. -/
theorem exec_setSeq {i : Instr} {s : State} {sel : Sel} {v : Bits} (hr : s.Runs)
    (he : commandEnabled i s = true) (hb : commandBody i s.takeWord = s.takeWord.setSeq sel v)
    (hs : i ≠ .srst) (hc : ∀ c, i ≠ .setctrl c) :
    ∃ t, exec i s = .next t ∧ t.seq sel = v ∧ t.seq sel.other = s.seq sel.other ∧
      SamePacker s t ∧ SameOut s t ∧ SameReader s t ∧ SameDecoder s t ∧ SameErrors s t ∧
      t.result = s.result ∧ CommandFrame s t := by
  obtain ⟨hexec, hframe⟩ := exec_runs_framed hr he hb hs hc
  obtain ⟨hpack, hout, hread, hdec, herr, hres⟩ := s.takeWord.setSeq_sameUnits sel v
  exact ⟨_, hexec, by simp, by simp, hpack, hout, hread, hdec, herr, hres, hframe⟩

/-- Both registers, whichever one the selector names. -/
theorem sameSeqs_of_seq {s t : State} (sel : Sel) (h : t.seq sel = s.seq sel)
    (ho : t.seq sel.other = s.seq sel.other) : SameSeqs s t := by
  cases sel
  · exact ⟨h, ho⟩
  · exact ⟨ho, h⟩

/-! ### The bodies of the accumulator's commands -/

theorem bitByte_eq_ite (b : Bool) : bitByte b = if b then 1#8 else 0#8 := by cases b <;> rfl

theorem commandBody_bsqPush_room {s : State} {sel : Sel} (h : (s.seq sel).length ≠ 256) (b : Bool) :
    commandBody (.bsqPush sel b) s = s.setSeq sel (s.seq sel ++ [b]) :=
  if_neg h

theorem commandBody_bsqPush_full {s : State} {sel : Sel} (h : (s.seq sel).length = 256) (b : Bool) :
    commandBody (.bsqPush sel b) s = s.raise .seqOvf .cmd (encode (.bsqPush sel b)) :=
  if_pos h

theorem commandBody_bsqPop_append {s : State} {sel : Sel} {u : Bits} {v : Bool}
    (h : s.seq sel = u ++ [v]) :
    commandBody (.bsqPop sel) s = (s.setSeq sel u).setData (bitByte v) := by
  simp [commandBody, h]

theorem commandBody_bsqPop_empty {s : State} {sel : Sel} (h : s.seq sel = []) :
    commandBody (.bsqPop sel) s = s.raise .seqUnf .cmd (encode (.bsqPop sel)) := by
  simp [commandBody, h]

theorem commandBody_bsqGet_inside {s : State} {sel : Sel} {idx : Nat} (h : idx < (s.seq sel).length) :
    commandBody (.bsqGet sel idx) s = s.setData (bitByte ((s.seq sel).getD idx false)) := by
  simp [commandBody, h]

theorem commandBody_bsqGet_past {s : State} {sel : Sel} {idx : Nat} (h : (s.seq sel).length ≤ idx) :
    commandBody (.bsqGet sel idx) s = s.raise .seqIdx .cmd (encode (.bsqGet sel idx)) := by
  simp [commandBody, List.getElem?_eq_none h]

theorem commandBody_bsqEmit_streaming {s : State} (h : s.wst = .streaming) (sel : Sel) :
    commandBody (.bsqEmit sel) s = s.writeBits (s.seq sel) :=
  if_pos h

theorem commandBody_bsqEmit_flushed {s : State} (h : s.wst ≠ .streaming) (sel : Sel) :
    commandBody (.bsqEmit sel) s = s.raise .wrDone .cmd (encode (.bsqEmit sel)) :=
  if_neg h

/-! ### The stream the packer produces (41_writer.md R130) -/

/-- The low bits of a buffer that a bit came into are the buffer's and then that bit. -/
theorem lowBits_shiftIn {n : Nat} (hn : n < 8) (v : Byte) (b : Bool) :
    (List.range (n + 1)).reverse.map (fun i => (shiftIn v b).getLsbD i) =
      (List.range n).reverse.map (fun i => v.getLsbD i) ++ [b] := by
  have hnew : (shiftIn v b).getLsbD 0 = b := by cases b <;> simp [shiftIn, bitByte]
  have hold (i : Nat) (hi : i < n) : (shiftIn v b).getLsbD (i + 1) = v.getLsbD i := by
    have hlt : i + 1 < 8 := by omega
    have hget := BitVec.getLsbD_eq_getElem (x := v) (Nat.lt_of_succ_lt hlt)
    cases b <;> simp [shiftIn, bitByte, hlt, hget]
  rw [List.range_succ_eq_map, List.reverse_cons, List.map_append, ← List.map_reverse, List.map_map]
  congr 1
  · exact List.map_congr_left fun i hi => hold i (by simpa using hi)
  · exact congrArg (fun c => [c]) hnew

theorem byteBits_eq_lowBits (v : Byte) :
    byteBits v = (List.range 8).reverse.map (fun i => v.getLsbD i) := rfl

/-- `WriteBit` appends its bit to the stream, whether it completes a byte or not. -/
theorem State.writtenBits_writeBit {s : State} (h : s.wcnt < 8) (b : Bool) :
    (s.writeBit b).writtenBits = s.writtenBits ++ [b] := by
  have hlow := lowBits_shiftIn h s.wbuf b
  by_cases h7 : s.wcnt = 7
  · rw [h7, ← byteBits_eq_lowBits] at hlow
    simp [State.writeBit_eighth h7, State.writtenBits, State.heldBits, State.emitByte, hlow, h7]
  · rw [State.writeBit_held h7]
    simp only [State.writtenBits, State.heldBits, hlow, List.append_assoc]

theorem State.writeBit_wcnt_lt {s : State} (h : s.wcnt < 8) (b : Bool) : (s.writeBit b).wcnt < 8 := by
  by_cases h7 : s.wcnt = 7
  · simp [State.writeBit_eighth h7]
  · rw [State.writeBit_held h7]
    exact Nat.lt_of_le_of_ne h (by simpa using h7)

/-- A run of `WriteBit`s appends its bits to the stream in order (40_bitsequence.md R108, 41_writer.md
R137). -/
theorem State.writtenBits_writeBits {s : State} (h : s.wcnt < 8) (v : Bits) :
    (s.writeBits v).writtenBits = s.writtenBits ++ v := by
  induction v generalizing s with
  | nil => simp
  | cons b v ih =>
    rw [State.writeBits_cons, ih (State.writeBit_wcnt_lt h b), State.writtenBits_writeBit h,
      List.append_assoc, List.singleton_append]

theorem State.length_writtenBits (s : State) : s.writtenBits.length = 8 * s.out.length + s.wcnt := by
  simp [State.writtenBits, State.heldBits, Nat.mul_comm]

/-- `WriteBit` before the flush keeps the packer's fields in range (10_state.md R24). -/
theorem State.PackerOk.writeBit {s : State} (hp : s.PackerOk) (hw : s.wst = .streaming) (b : Bool) :
    (s.writeBit b).PackerOk := by
  obtain ⟨hcnt, hfit, -, -⟩ := hp
  refine ⟨State.writeBit_wcnt_lt hcnt b, ?_, by simp [hw], by simp [hw]⟩
  by_cases h7 : s.wcnt = 7
  · simp [State.writeBit_eighth h7]
  · rw [State.writeBit_held h7]
    exact toNat_shiftIn_lt hfit b

theorem State.PackerOk.writeBits {s : State} (hp : s.PackerOk) (hw : s.wst = .streaming) (v : Bits) :
    (s.writeBits v).PackerOk := by
  induction v generalizing s with
  | nil => exact hp
  | cons b v ih => exact ih (hp.writeBit hw b) (by simpa using hw)

/-- A run of `WriteBit`s leaves WST, the other units and RESULT. -/
theorem State.writeBits_sameUnits (s : State) (v : Bits) :
    (s.writeBits v).wst = s.wst ∧ SameSeqs s (s.writeBits v) ∧ SameReader s (s.writeBits v) ∧
      SameDecoder s (s.writeBits v) ∧ SameErrors s (s.writeBits v) ∧
      (s.writeBits v).result = s.result := by
  obtain ⟨w, c, o, n, h⟩ := s.writeBits_frame v
  rw [h]
  and_intros
  all_goals rfl

/-- The bytes a run of `WriteBit`s appends to OUT, and the bits it leaves held: the stream's length in
bits divided by eight (40_bitsequence.md R108). -/
theorem State.writeBits_bytes {s : State} (hp : s.PackerOk) (hw : s.wst = .streaming) (v : Bits) :
    (∃ bs, (s.writeBits v).out = s.out ++ bs ∧ bs.length = (s.wcnt + v.length) / 8 ∧
      (s.writeBits v).outCount = s.outCount + BitVec.ofNat 32 bs.length) ∧
    (s.writeBits v).wcnt = (s.wcnt + v.length) % 8 := by
  obtain ⟨hcnt', -⟩ := hp.writeBits hw v
  obtain ⟨hcnt, -⟩ := hp
  obtain ⟨bs, hout, hcount⟩ := s.writeBits_appendsOut v
  have hlen := congrArg List.length (State.writtenBits_writeBits hcnt v)
  rw [List.length_append, State.length_writtenBits, State.length_writtenBits, hout,
    List.length_append] at hlen
  exact ⟨⟨bs, hout, by omega, hcount⟩, by omega⟩

/-! ### The obligations -/

/-- Settles O21: the body writes the empty sequence. -/
theorem bsqClrEmptiesItsSequence : Obligations.BsqClrEmptiesItsSequence := by
  intro sel s hr
  obtain ⟨hword, hsel⟩ := selector_word (p := 0x2000#16) rfl sel
  exact ⟨hword, hsel, exec_setSeq hr rfl rfl nofun nofun⟩

/-- Settles O22: the body writes the longer sequence, or raises at 256 bits. -/
theorem bsqPushAppendsAtTheTail : Obligations.BsqPushAppendsAtTheTail := by
  intro sel b s hr
  refine ⟨bsqPush_word sel b, fun hroom => ?_, fun hfull => ?_⟩
  · rw [← s.seq_takeWord] at hroom
    rw [← s.seq_takeWord sel]
    exact exec_setSeq hr rfl (commandBody_bsqPush_room hroom b) nofun nofun
  · rw [← s.seq_takeWord] at hfull
    exact exec_raises hr rfl (commandBody_bsqPush_full hfull b)

/-- Settles O23: the body writes the sequence without its tail and RESULT, or raises on no bits. -/
theorem bsqPopRemovesTheTail : Obligations.BsqPopRemovesTheTail := by
  intro sel s hr
  refine ⟨selector_word (p := 0x3000#16) rfl sel, fun u v huv => ?_, fun hempty => ?_⟩
  · rw [← s.seq_takeWord] at huv
    obtain ⟨hexec, hframe⟩ := exec_runs_framed hr rfl (commandBody_bsqPop_append huv) nofun nofun
    obtain ⟨hpack, hout, hread, hdec, herr, -⟩ := s.takeWord.setSeq_sameUnits sel u
    exact ⟨_, hexec, by simp, by simp [bitByte_eq_ite], by simp, hpack, hout, hread,
      hdec, herr, hframe⟩
  · rw [← s.seq_takeWord] at hempty
    exact exec_raises hr rfl (commandBody_bsqPop_empty hempty)

/-- Settles O24: the body writes RESULT only, or raises at or past the length. -/
theorem bsqGetReadsTheIndexedBit : Obligations.BsqGetReadsTheIndexedBit := by
  intro sel idx s hr
  refine ⟨bsqGet_word sel idx, fun hin => ?_, fun hpast => ?_⟩
  · rw [← s.seq_takeWord] at hin
    obtain ⟨hexec, hframe⟩ := exec_runs_framed hr rfl (commandBody_bsqGet_inside hin) nofun nofun
    refine ⟨_, hexec, by simp [bitByte_eq_ite], ?_, ?_, ?_, ?_, ?_, ?_, hframe⟩
    all_goals
      and_intros
      all_goals rfl
  · rw [← s.seq_takeWord] at hpast
    exact exec_raises hr rfl (commandBody_bsqGet_past hpast)

/-- Settles O25: the body writes the source's bits to the other register. -/
theorem bsqCopyWritesTheOtherRegister : Obligations.BsqCopyWritesTheOtherRegister := by
  intro sel s hr
  obtain ⟨hword, hsel⟩ := selector_word (p := 0x4000#16) rfl sel
  obtain ⟨t, hexec, hcopy, hsource, hrest⟩ :=
    exec_setSeq (i := .bsqCopy sel) (sel := sel.other) hr rfl rfl nofun nofun
  rw [s.seq_takeWord] at hcopy
  rw [Sel.other_other] at hsource
  exact ⟨hword, hsel, t, hexec, hcopy, hsource, hrest⟩

/-- Settles O27: the push leaves a state that runs, whose sequence ends in the pushed bit. -/
theorem popUndoesPush : Obligations.PopUndoesPush := by
  intro sel b s hr hlt
  obtain ⟨-, hpush, -⟩ := bsqPushAppendsAtTheTail sel b s hr
  obtain ⟨t, hst, hseq, hother, -, -, -, ⟨hdst, -⟩, ⟨herr, -⟩, -⟩ := hpush (Nat.ne_of_lt hlt)
  have hrt : t.Runs := hr.of_same hdst herr
  obtain ⟨-, hpop, -⟩ := bsqPopRemovesTheTail sel t hrt
  obtain ⟨u, htu, hseq', hres, hother', -, -, -, -, ⟨herr', -⟩, -⟩ := hpop _ _ hseq
  obtain ⟨h0, h1⟩ := sameSeqs_of_seq sel hseq' (hother'.trans hother)
  obtain ⟨-, hok⟩ := hrt
  exact ⟨t, u, hst, htu, h0, h1, hres, herr'.trans hok⟩

/-- Settles O28: the body is a run of `WriteBit`s over the sequence, or raises after the flush. -/
theorem bsqEmitWritesTheWholeSequence : Obligations.BsqEmitWritesTheWholeSequence := by
  intro sel s hr
  refine ⟨selector_word (p := 0x4800#16) rfl sel, fun hw hp => ?_, fun hw => ?_⟩
  · obtain ⟨hexec, hframe⟩ :=
      exec_runs_framed hr rfl (commandBody_bsqEmit_streaming (s := s.takeWord) hw sel) nofun nofun
    obtain ⟨hbytes, hheld⟩ := State.writeBits_bytes (s := s.takeWord) hp hw (s.seq sel)
    obtain ⟨hwst, hseqs, hread, hdec, herr, hres⟩ := s.takeWord.writeBits_sameUnits (s.seq sel)
    have hok := State.PackerOk.writeBits (s := s.takeWord) hp hw (s.seq sel)
    obtain ⟨hcnt, -⟩ := hp
    rw [s.seq_takeWord] at hexec hframe
    exact ⟨_, hexec, State.writtenBits_writeBits (s := s.takeWord) hcnt _, hbytes, hheld, hok,
      hwst.trans hw, hseqs, hread, hdec, herr, hres, hframe⟩
  · exact exec_raises hr rfl (commandBody_bsqEmit_flushed (s := s.takeWord) hw sel)

end Sys2Proof.Machine
end

section
/-! SUPPORT. The packer (41_writer.md): the words of its commands, what its operations write, the stream a
flush completes and what the unpacker serves of it, and the statements about WR_BIT, WR_BYTE and WR_FLUSH. -/

namespace Sys2Proof.Machine

/-! ### The words of the commands -/

/-- A WR_BIT word holds its bit (30_encoding.md R83). -/
theorem wrBit_word (b : Bool) :
    EncodedAs (.wrBit b) 0xFFFE 0x6000 ∧ bitOf (encode (.wrBit b)) = b := by
  cases b <;> decide

/-- A WR_BYTE word holds its literal (30_encoding.md R83). -/
theorem wrByte_word (v : Byte) :
    EncodedAs (.wrByte v) 0xFF00 0x6800 ∧ imm8Of (encode (.wrByte v)) = v := by
  have hback : imm8Of (v.setWidth 16) = v := by
    ext i hi
    have hword : i < 16 := by omega
    simp [imm8Of, hi, hword]
  constructor
  · have hmask : v.setWidth 16 &&& 0xFF00#16 = 0#16 := by
      have hlow := setWidth_imm8Of (v.setWidth 16)
      rw [hback] at hlow
      rw [hlow, BitVec.and_assoc]
      exact BitVec.and_zero
    calc (0x6800#16 ||| v.setWidth 16) &&& 0xFF00#16
        = 0x6800#16 &&& 0xFF00#16 ||| v.setWidth 16 &&& 0xFF00#16 := by
          rw [BitVec.and_comm, BitVec.and_or_distrib_left, BitVec.and_comm, BitVec.and_comm 0xFF00#16]
      _ = 0x6800#16 := by rw [hmask]; rfl
  · rw [imm8Of, encode, BitVec.extractLsb'_or]
    exact (BitVec.zero_or).trans hback

/-! ### The bodies of the writing commands -/

theorem commandBody_wrBit_streaming {s : State} (h : s.wst = .streaming) (b : Bool) :
    commandBody (.wrBit b) s = s.writeBit b :=
  if_pos h

theorem commandBody_wrBit_flushed {s : State} (h : s.wst ≠ .streaming) (b : Bool) :
    commandBody (.wrBit b) s = s.raise .wrDone .cmd (encode (.wrBit b)) :=
  if_neg h

theorem commandBody_wrByte_streaming {s : State} (h : s.wst = .streaming) (v : Byte) :
    commandBody (.wrByte v) s = s.writeBits (byteBits v) :=
  if_pos h

theorem commandBody_wrByte_flushed {s : State} (h : s.wst ≠ .streaming) (v : Byte) :
    commandBody (.wrByte v) s = s.raise .wrDone .cmd (encode (.wrByte v)) :=
  if_neg h

theorem commandBody_wrFlush_streaming {s : State} (h : s.wst = .streaming) :
    commandBody .wrFlush s = s.flush :=
  if_pos h

theorem commandBody_wrFlush_flushed {s : State} (h : s.wst ≠ .streaming) :
    commandBody .wrFlush s = s.raise .wrDone .cmd (encode .wrFlush) :=
  if_neg h

/-! ### WR_BIT and the stream of bits given -/

/-- Settles O29: the body is one `WriteBit`, or raises after the flush. -/
theorem wrBitPacksOneBit : Obligations.WrBitPacksOneBit := by
  intro b s hr
  refine ⟨wrBit_word b, fun hw => ?_, fun hw => ?_⟩
  · obtain ⟨hexec, hframe⟩ :=
      exec_runs_framed hr rfl (commandBody_wrBit_streaming (s := s.takeWord) hw b) nofun nofun
    obtain ⟨hwst, hseqs, hread, hdec, herr, hres⟩ := s.takeWord.writeBits_sameUnits [b]
    rw [State.writeBits_cons, State.writeBits_nil] at hwst hseqs hread hdec herr hres
    refine ⟨_, hexec, fun h7 => ?_, fun h7 => ?_, hwst.trans hw, hseqs, hread, hdec, herr, hres, hframe⟩
    · simp [State.writeBit_eighth (s := s.takeWord) h7, shiftIn, bitByte_eq_ite]
    · rw [State.writeBit_held (s := s.takeWord) h7, shiftIn, bitByte_eq_ite]
      exact ⟨rfl, rfl, rfl, rfl⟩
  · exact exec_raises hr rfl (commandBody_wrBit_flushed (s := s.takeWord) hw b)

/-- Settles O33: the stream's bits and, counted, its length. -/
theorem writtenStreamGrowsByTheBitsGiven : Obligations.WrittenStreamGrowsByTheBitsGiven := by
  intro s v h
  have hbits := State.writtenBits_writeBits h v
  refine ⟨hbits, ?_⟩
  rw [← State.length_writtenBits, ← State.length_writtenBits, hbits, List.length_append]

/-! ### The flush -/

/-- The padded byte has the held bits on top, oldest first, and zeros below (41_writer.md R134). -/
theorem getLsbD_padded {k i : Nat} (hk : k ≤ 8) (hi : i < 8) (v : Byte) :
    (v <<< (8 - k)).getLsbD (7 - i) = (decide (i < k) && v.getLsbD (k - 1 - i)) := by
  rw [BitVec.getLsbD_shiftLeft]
  by_cases h : i < k
  · have hidx : 7 - i - (8 - k) = k - 1 - i := by omega
    simp [h, hidx]
    omega
  · simp [h]
    omega

/-- With bits held the flush emits them padded (41_writer.md R134). -/
theorem State.flush_held {s : State} (h : 0 < s.wcnt) :
    s.flush = { s.emitByte (s.wbuf <<< (8 - s.wcnt)) with wbuf := 0, wcnt := 0, wst := .done } := by
  simp [State.flush, h]

/-- With no bit held the flush emits nothing (41_writer.md R134). -/
theorem State.flush_empty {s : State} (h : s.wcnt = 0) :
    s.flush = { s with wbuf := 0, wcnt := 0, wst := .done } := by
  simp [State.flush, h]

/-- The flush leaves the other units and RESULT. -/
theorem State.flush_sameUnits (s : State) :
    SameSeqs s s.flush ∧ SameReader s s.flush ∧ SameDecoder s s.flush ∧ SameErrors s s.flush ∧
      s.flush.result = s.result := by
  obtain ⟨o, n, h⟩ := s.flush_frame
  rw [h]
  and_intros
  all_goals rfl

/-- Settles O31: the body is the flush, or raises when there was one before. -/
theorem wrFlushPadsTheLastByte : Obligations.WrFlushPadsTheLastByte := by
  intro s hr
  refine ⟨rfl, fun hw hcnt => ?_, fun hw => ?_⟩
  · obtain ⟨hexec, hframe⟩ :=
      exec_runs_framed hr rfl (commandBody_wrFlush_streaming (s := s.takeWord) hw) nofun nofun
    obtain ⟨hseqs, hread, hdec, herr, hres⟩ := s.takeWord.flush_sameUnits
    refine ⟨_, hexec, fun h0 => ?_, fun hpos => ?_, rfl, rfl, rfl, hseqs, hread, hdec, herr, hres, hframe⟩
    · rw [State.flush_empty (s := s.takeWord) h0]
      exact ⟨rfl, rfl⟩
    · rw [State.flush_held (s := s.takeWord) hpos]
      exact ⟨_, rfl, rfl, fun i hi => getLsbD_padded hcnt.le hi s.wbuf⟩
  · exact exec_raises hr rfl (commandBody_wrFlush_flushed (s := s.takeWord) hw)

/-! ### Bits of a stream of bytes -/

theorem getD_byteBits {i : Nat} (hi : i < 8) (v : Byte) :
    (byteBits v).getD i false = v.getLsbD (7 - i) := by
  simp [byteBits_eq_lowBits, hi]

/-- Bit `8j + i` of a stream of bytes is bit `7 - i` of byte `j` (41_writer.md R137). -/
theorem getD_flatMap_byteBits (bs : List Byte) (j : Nat) {i : Nat} (hi : i < 8) :
    (bs.flatMap byteBits).getD (8 * j + i) false = (bs.getD j 0).getLsbD (7 - i) := by
  induction bs generalizing j with
  | nil => simp
  | cons v bs ih =>
    rw [List.flatMap_cons]
    cases j with
    | zero =>
      rw [List.getD_append _ _ _ _ (by simpa using hi)]
      simpa using getD_byteBits hi v
    | succ j =>
      rw [List.getD_append_right _ _ _ _ (by simp; omega), length_byteBits,
        show 8 * (j + 1) + i - 8 = 8 * j + i by omega, ih j]
      simp

/-- Held bit `i`, oldest first (10_state.md R24). -/
theorem State.getD_heldBits {s : State} {i : Nat} (hi : i < s.wcnt) :
    s.heldBits.getD i false = s.wbuf.getLsbD (s.wcnt - 1 - i) := by
  simp [State.heldBits, hi]

theorem State.length_heldBits (s : State) : s.heldBits.length = s.wcnt := by
  simp [State.heldBits]

/-- The padded byte holds the held bits and then zeros (41_writer.md R134). -/
theorem State.byteBits_padded {s : State} (h : s.wcnt ≤ 8) :
    byteBits (s.wbuf <<< (8 - s.wcnt)) = s.heldBits ++ List.replicate (8 - s.wcnt) false := by
  refine List.ext_getElem (by simp [s.length_heldBits, h]) fun i hi _ => ?_
  rw [length_byteBits] at hi
  rw [← List.getD_eq_getElem _ false, ← List.getD_eq_getElem _ false, getD_byteBits hi,
    getLsbD_padded h hi]
  by_cases hk : i < s.wcnt
  · rw [List.getD_append _ _ _ _ (by rwa [s.length_heldBits]), State.getD_heldBits hk]
    simp [hk]
  · rw [List.getD_append_right _ _ _ _ (by rw [s.length_heldBits]; omega)]
    simp [hk]

/-- The flush completes the stream's last byte with zeros (41_writer.md R134). -/
theorem State.writtenBits_flush {s : State} (h : s.wcnt < 8) :
    ∃ n < 8, s.flush.writtenBits = s.writtenBits ++ List.replicate n false := by
  by_cases h0 : s.wcnt = 0
  · exact ⟨0, by decide, by simp [State.flush_empty h0, State.writtenBits, State.heldBits, h0]⟩
  · refine ⟨8 - s.wcnt, by omega, ?_⟩
    rw [State.flush_held (Nat.pos_of_ne_zero h0)]
    simp [State.writtenBits, State.heldBits, State.byteBits_padded h.le]

theorem State.writtenBits_of_wcnt_eq_zero {s : State} (h : s.wcnt = 0) :
    s.writtenBits = s.out.flatMap byteBits := by
  simp [State.writtenBits, State.heldBits, h]

theorem State.writeBits_wcnt_lt {s : State} (h : s.wcnt < 8) (v : Bits) : (s.writeBits v).wcnt < 8 := by
  induction v generalizing s with
  | nil => exact h
  | cons b v ih => exact ih (State.writeBit_wcnt_lt h b)

/-- WR_FLUSH after bits given to an empty packer: the bytes appended hold the bits, padded with fewer than
eight zeros (41_writer.md R137). -/
theorem exec_wrFlush_writeBits {s : State} (hr : s.Runs) (hw : s.wst = .streaming) (hcnt : s.wcnt = 0)
    (v : Bits) :
    ∃ t bs n, exec .wrFlush (s.writeBits v) = .next t ∧ t.out = s.out ++ bs ∧ n < 8 ∧
      bs.flatMap byteBits = v ++ List.replicate n false := by
  obtain ⟨hwst, -, -, ⟨hdst, -⟩, ⟨herr, -⟩, -⟩ := s.writeBits_sameUnits v
  have hexec := exec_runs (i := .wrFlush) (hr.of_same hdst herr) rfl
  rw [commandBody_wrFlush_streaming (s := (s.writeBits v).takeWord) (hwst.trans hw)] at hexec
  have hlt : s.wcnt < 8 := by omega
  obtain ⟨n, hn, hflush⟩ :=
    State.writtenBits_flush (s := (s.writeBits v).takeWord) (State.writeBits_wcnt_lt hlt v)
  obtain ⟨bs, hout, -⟩ := (s.writeBits_appendsOut v).trans (s.writeBits v).takeWord.flush_appendsOut
  refine ⟨_, bs, n, hexec, hout, hn, ?_⟩
  have hstream : (s.writeBits v).takeWord.writtenBits = s.writtenBits ++ v :=
    State.writtenBits_writeBits hlt v
  rw [hstream, State.writtenBits_of_wcnt_eq_zero rfl, State.writtenBits_of_wcnt_eq_zero hcnt, hout,
    List.flatMap_append, List.append_assoc] at hflush
  exact List.append_cancel_left hflush

/-- Settles O34: the bytes are the bits and fewer than eight zeros, read bit by bit. -/
theorem flushedStreamIsTheBitsPadded : Obligations.FlushedStreamIsTheBitsPadded := by
  intro s v hr hw hcnt _
  obtain ⟨t, bs, n, hexec, hout, hn, hbits⟩ := exec_wrFlush_writeBits hr hw hcnt v
  have hlen := congrArg List.length hbits
  simp only [List.length_flatMap, length_byteBits, List.map_const', List.sum_replicate,
    List.length_append, List.length_replicate, smul_eq_mul] at hlen
  refine ⟨t, bs, hexec, hout, by omega, fun j i _ hi => ?_⟩
  rw [← getD_flatMap_byteBits bs j hi, hbits]
  by_cases hin : 8 * j + i < v.length
  · rw [List.getD_append _ _ _ _ hin]
  · rw [List.getD_append_right _ _ _ _ (not_lt.1 hin), List.getD_eq_default v _ (not_lt.1 hin)]
    simp

/-! ### WR_BYTE -/

/-- Once a run of `WriteBit`s has completed a byte, the buffer holds nothing above its WCNT bits, whatever
stood there before (10_state.md R24). -/
theorem State.writeBits_packerOk {s : State} (h : s.wcnt < 8) (hw : s.wst = .streaming) {v : Bits}
    (hv : 8 ≤ s.wcnt + v.length) : (s.writeBits v).PackerOk := by
  induction v generalizing s with
  | nil => simp at hv; omega
  | cons b v ih =>
    rw [State.writeBits_cons]
    by_cases h7 : s.wcnt = 7
    · refine State.PackerOk.writeBits ?_ (by simpa using hw) v
      rw [State.writeBit_eighth h7]
      simp [State.PackerOk, hw]
    · refine ih (State.writeBit_wcnt_lt h b) (by simpa using hw) ?_
      rw [State.writeBit_held h7]
      simp only [List.length_cons] at hv ⊢
      omega

/-- A value below `2 ^ k` has no bit at `k` or above. -/
theorem getLsbD_of_toNat_lt {v : Byte} {k i : Nat} (hv : v.toNat < 2 ^ k) (hi : k ≤ i) :
    v.getLsbD i = false :=
  Nat.testBit_lt_two_pow (hv.trans_le (Nat.pow_le_pow_right (by decide) hi))

/-- The bits of a byte given to the packer: one byte goes out, and it and the bits held afterwards are the
bits held before and then the literal's (41_writer.md R132). -/
theorem State.writeBits_byte {s : State} (h : s.wcnt < 8) (v : Byte) :
    ∃ x, (s.writeBits (byteBits v)).out = s.out ++ [x] ∧
      (s.writeBits (byteBits v)).outCount = s.outCount + 1 ∧
      (s.writeBits (byteBits v)).wcnt = s.wcnt ∧
      byteBits x ++ (s.writeBits (byteBits v)).heldBits = s.heldBits ++ byteBits v := by
  obtain ⟨hstream, hlen⟩ := writtenStreamGrowsByTheBitsGiven s (byteBits v) h
  have hlt := State.writeBits_wcnt_lt h (byteBits v)
  obtain ⟨bs, hout, hcount⟩ := s.writeBits_appendsOut (byteBits v)
  rw [hout, List.length_append, length_byteBits] at hlen
  obtain ⟨x, rfl⟩ := List.length_eq_one_iff.1 (show bs.length = 1 by omega)
  refine ⟨x, hout, hcount, by simp at hlen; omega, ?_⟩
  simpa [State.writtenBits, hout] using hstream

/-- The byte that goes out: the held bits and then the literal's high bits (41_writer.md R132). -/
theorem byte_eq_of_stream {s t : State} {v x : Byte} (h : s.wcnt < 8)
    (hbits : byteBits x ++ t.heldBits = s.heldBits ++ byteBits v) :
    x = s.wbuf <<< (8 - s.wcnt) ||| v >>> s.wcnt := by
  refine BitVec.eq_of_getLsbD_eq fun p hp => ?_
  obtain ⟨i, hi, rfl⟩ : ∃ i < 8, p = 7 - i := ⟨7 - p, by omega, by omega⟩
  rw [BitVec.getLsbD_or, getLsbD_padded h.le hi, BitVec.getLsbD_ushiftRight, ← getD_byteBits hi,
    ← List.getD_append _ t.heldBits _ _ (by simpa using hi), hbits]
  by_cases hk : i < s.wcnt
  · rw [List.getD_append _ _ _ _ (by rwa [s.length_heldBits]), State.getD_heldBits hk,
      BitVec.getLsbD_of_ge v _ (by omega)]
    simp [hk]
  · rw [List.getD_append_right _ _ _ _ (by rw [s.length_heldBits]; omega), s.length_heldBits,
      getD_byteBits (by omega), show 7 - (i - s.wcnt) = s.wcnt + (7 - i) by omega]
    simp [hk]

/-- The bits held afterwards: the literal's low bits (41_writer.md R132). -/
theorem getLsbD_held_of_stream {s t : State} {v x : Byte} {i : Nat} (h : s.wcnt < 8)
    (hcnt : t.wcnt = s.wcnt) (hbits : byteBits x ++ t.heldBits = s.heldBits ++ byteBits v)
    (hi : i < s.wcnt) : t.wbuf.getLsbD i = v.getLsbD i := by
  have hheld := State.getD_heldBits (s := t) (i := s.wcnt - 1 - i) (by omega)
  calc t.wbuf.getLsbD i
      = t.heldBits.getD (s.wcnt - 1 - i) false := by
        rw [hheld, hcnt, show s.wcnt - 1 - (s.wcnt - 1 - i) = i by omega]
    _ = (byteBits x ++ t.heldBits).getD (8 + (s.wcnt - 1 - i)) false := by
        rw [List.getD_append_right _ _ _ _ (by simp), length_byteBits, Nat.add_sub_cancel_left]
    _ = (byteBits v).getD (7 - i) false := by
        rw [hbits, List.getD_append_right _ _ _ _ (by rw [s.length_heldBits]; omega), s.length_heldBits,
          show 8 + (s.wcnt - 1 - i) - s.wcnt = 7 - i by omega]
    _ = v.getLsbD i := by rw [getD_byteBits (by omega), show 7 - (7 - i) = i by omega]

/-- Settles O30: the body is the literal's eight `WriteBit`s, or raises after the flush. -/
theorem wrBytePacksALiteral : Obligations.WrBytePacksALiteral := by
  intro v s hr
  refine ⟨wrByte_word v, fun hw hcnt => ?_, fun hw => ?_⟩
  · obtain ⟨hexec, hframe⟩ :=
      exec_runs_framed hr rfl (commandBody_wrByte_streaming (s := s.takeWord) hw v) nofun nofun
    obtain ⟨hwst, hseqs, hread, hdec, herr, hres⟩ := s.takeWord.writeBits_sameUnits (byteBits v)
    obtain ⟨x, hout, hcount, hwcnt, hbits⟩ := State.writeBits_byte (s := s.takeWord) hcnt v
    obtain ⟨-, hfit, -⟩ := State.writeBits_packerOk (s := s.takeWord) hcnt hw (v := byteBits v) (by simp)
    obtain rfl := byte_eq_of_stream (s := s.takeWord) hcnt hbits
    refine ⟨_, hexec, hout, hcount, hwcnt, fun i => ?_, hwst.trans hw, hseqs, hread, hdec, herr, hres,
      hframe⟩
    by_cases hi : i < s.wcnt
    · rw [getLsbD_held_of_stream (s := s.takeWord) hcnt hwcnt hbits hi]
      simp [hi]
    · rw [hwcnt] at hfit
      rw [getLsbD_of_toNat_lt hfit (not_lt.1 hi)]
      simp [hi]
  · exact exec_raises hr rfl (commandBody_wrByte_flushed (s := s.takeWord) hw v)

/-! ### What the unpacker serves -/

/-- A refill moves the byte from INQ to RBUF: the bits to serve are the same (42_reader.md R150). -/
@[simp] theorem State.pendingBits_fetchBit (s : State) : s.fetchBit.pendingBits = s.pendingBits := by
  unfold State.fetchBit State.refill
  split
  · split
    · rfl
    · rename_i hrcnt _ v q hinq
      simp [State.pendingBits, hrcnt, hinq, byteBits_eq_lowBits]
  · rfl

/-- After the refill RBUF has a bit, if one was available (42_reader.md R150). -/
theorem State.fetchBit_rcnt_pos {s : State} (h : s.bitAvail = true) : 0 < s.fetchBit.rcnt := by
  unfold State.fetchBit State.refill
  split
  · rename_i hrcnt
    split
    · rename_i hinq
      simp [s.bitAvail_eq_false_iff.2 ⟨hrcnt, hinq⟩] at h
    · exact Nat.succ_pos 7
  · rename_i hrcnt
    exact Nat.pos_of_ne_zero hrcnt

/-- `ReadBit` serves the first of the bits to serve and leaves the others (42_reader.md R151). -/
theorem State.pendingBits_readBit {s : State} (h : s.bitAvail = true) :
    s.pendingBits = s.readBit.1 :: s.readBit.2.pendingBits := by
  obtain ⟨n, hn⟩ := Nat.exists_eq_add_one_of_ne_zero (State.fetchBit_rcnt_pos h).ne'
  rw [← s.pendingBits_fetchBit]
  simp [State.readBit, State.pendingBits, hn, List.range_succ]

/-- A run of `ReadBit`s serves the first bits in order and leaves the others (42_reader.md R151). -/
theorem State.serve_eq {s : State} {n : Nat} (h : n ≤ s.availBits) :
    (s.serve n).1 = s.pendingBits.take n ∧ (s.serve n).2.pendingBits = s.pendingBits.drop n := by
  induction n generalizing s with
  | zero => simp [State.serve]
  | succ n ih =>
    have hfirst := State.pendingBits_readBit (s.bitAvail_iff.2 (by omega))
    have hlen := congrArg List.length hfirst
    rw [s.length_pendingBits, List.length_cons, State.length_pendingBits] at hlen
    obtain ⟨hserved, hleft⟩ := ih (s := s.readBit.2) (by omega)
    rw [hfirst]
    simp [State.serve, hserved, hleft]

/-- Settles O42: the flushed bytes are the bits and then zeros, of which the reader serves the first. -/
theorem packedBitsAreReadBack : Obligations.PackedBitsAreReadBack := by
  intro s t r v bs hr hw hcnt _ hexec hout hrcnt hinq
  obtain ⟨t', bs', n, hexec', hout', -, hbits⟩ := exec_wrFlush_writeBits hr hw hcnt v
  obtain rfl : t = t' := Host.Outcome.next.inj (hexec.symm.trans hexec')
  obtain rfl : bs = bs' := List.append_cancel_left (hout.symm.trans hout')
  have hpending : r.pendingBits = v ++ List.replicate n false := by
    simp [State.pendingBits, hrcnt, hinq, hbits]
  have havail : v.length ≤ r.availBits := by simp [← r.length_pendingBits, hpending]
  obtain ⟨hserved, -⟩ := State.serve_eq havail
  rw [hserved, hpending, List.take_left]

/-! ### Who writes the packer, and what a writing command reads (41_writer.md R138) -/

/-- The body of a command other than WR_BIT, WR_BYTE, WR_FLUSH, BSQ_EMIT and SRST leaves the packer. -/
theorem commandBody_samePacker {i : Instr} (s : State) (hbit : ∀ b, i ≠ .wrBit b)
    (hbyte : ∀ v, i ≠ .wrByte v) (hflush : i ≠ .wrFlush) (hemit : ∀ sel, i ≠ .bsqEmit sel)
    (hsrst : i ≠ .srst) : SamePacker s (commandBody i s) := by
  unfold SamePacker
  cases i with
  | srst => exact absurd rfl hsrst
  | bsqEmit sel => exact absurd rfl (hemit sel)
  | wrBit b => exact absurd rfl (hbit b)
  | wrByte v => exact absurd rfl (hbyte v)
  | wrFlush => exact absurd rfl hflush
  | nop | setctrl | bsqClr | bsqCopy => simp [commandBody]
  | bsqPush | bsqPop | bsqGet | decSym => simp only [commandBody]; split <;> simp [State.startWalk]
  | rdBit =>
    obtain ⟨v, c, q, n, h⟩ := s.readBit_frame
    simp only [commandBody, h]; split <;> simp
  | rdByte =>
    obtain ⟨v, c, q, n, h⟩ := s.readInto_frame 8 0#8
    simp only [commandBody, h]
    split
    · simp
    · split <;> simp

/-- Settles O35: each agent's frame, and for CMD what a command can do. -/
theorem onlyWritersTouchThePacker : Obligations.OnlyWritersTouchThePacker := by
  refine ⟨fun i s t hbit hbyte hflush hemit hsrst h => ?_, fun s t h => ?_, fun s m => ?_, fun s m => ?_⟩
  · obtain ⟨rfl, -⟩ | ⟨-, -, rfl⟩ | ⟨rfl, -⟩ | ⟨-, -, -, rfl⟩ := exec_cases h
    · exact ⟨rfl, rfl, rfl⟩
    · exact ⟨rfl, rfl, rfl⟩
    · exact absurd rfl hsrst
    · exact commandBody_samePacker s.takeWord hbit hbyte hflush hemit hsrst
  · obtain ⟨-, hpacker, -⟩ := decTurn_frame h
    exact hpacker
  · obtain ⟨q, e, o, c, h⟩ := s.hostMove_frame m
    rw [h]
    exact ⟨rfl, rfl, rfl⟩
  · obtain h | ⟨a, w, h⟩ | ⟨a, h⟩ | ⟨-, h⟩ | h := s.insMove_cases m
    all_goals simp [SamePacker, h]

/-- What a writing command reads and writes is the same in two states: the sequences, the packer and OUT. -/
def SameWriter (s s' : State) : Prop := SameSeqs s s' ∧ SamePacker s s' ∧ SameOut s s'

theorem SameWriter.seq_eq {s s' : State} (h : SameWriter s s') (sel : Sel) : s'.seq sel = s.seq sel := by
  obtain ⟨⟨h0, h1⟩, -⟩ := h
  cases sel
  · exact h0
  · exact h1

theorem SameWriter.writeBit {s s' : State} (h : SameWriter s s') (b : Bool) :
    SameWriter (s.writeBit b) (s'.writeBit b) := by
  obtain ⟨hseqs, ⟨hbuf, hcnt, hwst⟩, ⟨hout, hcount⟩⟩ := h
  by_cases h7 : s.wcnt = 7
  · rw [State.writeBit_eighth h7, State.writeBit_eighth (hcnt.trans h7)]
    exact ⟨hseqs, ⟨rfl, rfl, hwst⟩, by simp [SameOut, hbuf, hout, hcount]⟩
  · rw [State.writeBit_held h7, State.writeBit_held (hcnt ▸ h7)]
    exact ⟨hseqs, by simp [SamePacker, hbuf, hcnt, hwst], hout, hcount⟩

theorem SameWriter.writeBits {s s' : State} (h : SameWriter s s') (v : Bits) :
    SameWriter (s.writeBits v) (s'.writeBits v) := by
  induction v generalizing s s' with
  | nil => exact h
  | cons b v ih => exact ih (h.writeBit b)

theorem SameWriter.flush {s s' : State} (h : SameWriter s s') : SameWriter s.flush s'.flush := by
  obtain ⟨hseqs, ⟨hbuf, hcnt, -⟩, ⟨hout, hcount⟩⟩ := h
  by_cases h0 : s.wcnt = 0
  · rw [State.flush_empty h0, State.flush_empty (hcnt.trans h0)]
    exact ⟨hseqs, ⟨rfl, rfl, rfl⟩, hout, hcount⟩
  · have hpos := Nat.pos_of_ne_zero h0
    rw [State.flush_held hpos, State.flush_held (hcnt ▸ hpos)]
    exact ⟨hseqs, ⟨rfl, rfl, rfl⟩, by simp [SameOut, hbuf, hcnt, hout, hcount]⟩

theorem SameWriter.raise {s s' : State} (h : SameWriter s s') (c : ErrCode) (r : ErrSrc)
    (i : BitVec 16) : SameWriter (s.raise c r i) (s'.raise c r i) := by
  simpa [SameWriter, SameSeqs, SamePacker, SameOut] using h

/-- A writing command looks at WST first, which is the same in both states (41_writer.md R133). -/
theorem SameWriter.whileStreaming {s s' t t' : State} (h : SameWriter s s') (ht : SameWriter t t')
    (w : Word) :
    SameWriter (if s.wst = .streaming then t else s.raise .wrDone .cmd w)
      (if s'.wst = .streaming then t' else s'.raise .wrDone .cmd w) := by
  have hwst : s'.wst = s.wst := by
    obtain ⟨-, ⟨-, -, hwst⟩, -⟩ := h
    exact hwst
  rw [hwst]
  split
  · exact ht
  · exact h.raise _ _ _

/-- Settles O36: the body of each writing command carries the agreement on. -/
theorem writersIgnoreReaderAndDecoder : Obligations.WritersIgnoreReaderAndDecoder := by
  intro i s s' t t' hi hr hr' hseqs hpacker hout ht ht'
  have hsame : SameWriter s.takeWord s'.takeWord := ⟨hseqs, hpacker, hout⟩
  have hbody : SameWriter (commandBody i s.takeWord) (commandBody i s'.takeWord) := by
    obtain ⟨b, rfl⟩ | ⟨v, rfl⟩ | rfl | ⟨sel, rfl⟩ := hi
    · exact hsame.whileStreaming (hsame.writeBit b) _
    · exact hsame.whileStreaming (hsame.writeBits (byteBits v)) _
    · exact hsame.whileStreaming hsame.flush _
    · have hemit := hsame.writeBits (s.takeWord.seq sel)
      nth_rw 2 [← hsame.seq_eq sel] at hemit
      exact hsame.whileStreaming hemit _
  have hen : ∀ u : State, commandEnabled i u = true := by
    obtain ⟨b, rfl⟩ | ⟨v, rfl⟩ | rfl | ⟨sel, rfl⟩ := hi
    all_goals exact fun _ => rfl
  rw [exec_runs hr (hen s), Host.Outcome.next.injEq] at ht
  rw [exec_runs hr' (hen s'), Host.Outcome.next.injEq] at ht'
  subst ht ht'
  exact hbody

end Sys2Proof.Machine
end

section
/-! SUPPORT. The unpacker (42_reader.md): what one `ReadBit` and a run of them leave, the byte that eight
bits make, who takes bits off the input stream, and the statements about RD_BIT and RD_BYTE. -/

namespace Sys2Proof.Machine

/-! ### ReadBit and runs of it (42_reader.md R150) -/

/-- While RBUF holds bits, the highest of them is served. -/
theorem State.readBit_held {s : State} (h : 0 < s.rcnt) :
    s.readBit = (s.rbuf.getLsbD (s.rcnt - 1), { s with rcnt := s.rcnt - 1 }) := by
  simp [State.readBit, State.fetchBit, h.ne']

/-- With RBUF used up, INQ's first byte is taken and its bit 7 served. -/
theorem State.readBit_refilled {s : State} {v : Byte} {q : List Byte} (h : s.rcnt = 0)
    (hq : s.inq = v :: q) :
    s.readBit =
      (v.getLsbD 7, { s with rbuf := v, rcnt := 7, inq := q, inCount := s.inCount + 1 }) := by
  simp [State.readBit, State.fetchBit, State.refill, h, hq]

/-- `ReadBit` serves a bit whenever one is available. -/
theorem State.servedBit_readBit {s : State} (h : s.bitAvail = true) :
    ServedBit s s.readBit.2 s.readBit.1 := by
  by_cases hr : s.rcnt = 0
  · have hne : s.inq ≠ [] := by simpa [hr] using s.bitAvail_iff_rcnt_or_inq.1 h
    obtain ⟨v, q, hq⟩ := List.exists_cons_of_ne_nil hne
    rw [State.readBit_refilled hr hq]
    exact ⟨rfl, .inr ⟨hr, v, q, hq, rfl, rfl, rfl, rfl, rfl⟩⟩
  · have hpos := Nat.pos_of_ne_zero hr
    rw [State.readBit_held hpos]
    exact ⟨rfl, .inl ⟨hpos, rfl, rfl, rfl, rfl, rfl⟩⟩

theorem State.serve_add (s : State) (m n : Nat) :
    (s.serve (m + n)).2 = ((s.serve m).2.serve n).2 := by
  induction m generalizing s with
  | zero => simp [State.serve]
  | succ m ih => rw [Nat.succ_add]; exact ih s.readBit.2

/-- A run of `ReadBit`s that RBUF can serve takes nothing from INQ. -/
theorem State.serve_held {s : State} {n : Nat} (h : n ≤ s.rcnt) :
    (s.serve n).2 = { s with rcnt := s.rcnt - n } := by
  induction n generalizing s with
  | zero => rfl
  | succ n ih =>
    rw [State.serve, State.readBit_held (by omega), ih (Nat.le_sub_one_of_lt h), Nat.sub_sub,
      Nat.add_comm 1 n]

/-- A run of at most eight `ReadBit`s from a used-up RBUF takes one byte from INQ. -/
theorem State.serve_refilled {s : State} {v : Byte} {q : List Byte} {n : Nat} (h : s.rcnt = 0)
    (hq : s.inq = v :: q) (hpos : 0 < n) (hle : n ≤ 8) :
    (s.serve n).2 =
      { s with rbuf := v, rcnt := 8 - n, inq := q, inCount := s.inCount + 1 } := by
  obtain ⟨m, rfl⟩ := Nat.exists_eq_add_one_of_ne_zero hpos.ne'
  rw [State.serve, State.readBit_refilled h hq, State.serve_held (Nat.le_of_succ_le_succ hle),
    show 8 - (m + 1) = 7 - m by omega]

/-- Eight `ReadBit`s from an RBUF that is not full use up its bits and take one byte from INQ
(42_reader.md R153). -/
theorem State.serve_eight_spanning {s : State} {v : Byte} {q : List Byte} (h : s.rcnt < 8)
    (hq : s.inq = v :: q) :
    (s.serve 8).2 = { s with rbuf := v, inq := q, inCount := s.inCount + 1 } := by
  calc (s.serve 8).2
      = ((s.serve s.rcnt).2.serve (8 - s.rcnt)).2 := by
        rw [← State.serve_add, Nat.add_sub_cancel' h.le]
    _ = ({ s with rcnt := 0 }.serve (8 - s.rcnt)).2 := by
        rw [State.serve_held le_rfl, Nat.sub_self]
    _ = { s with rbuf := v, rcnt := 8 - (8 - s.rcnt), inq := q, inCount := s.inCount + 1 } :=
        State.serve_refilled (s := { s with rcnt := 0 }) rfl hq (Nat.sub_pos_of_lt h) (Nat.sub_le _ _)
    _ = { s with rbuf := v, inq := q, inCount := s.inCount + 1 } := by
        rw [Nat.sub_sub_self h.le]

/-! ### The byte that eight bits make (42_reader.md R153) -/

/-- RD_BYTE's loop shifts the bits of a run of `ReadBit`s in, one after the other. -/
theorem State.readInto_eq_serve (s : State) (n : Nat) (v : Byte) :
    s.readInto n v = ((s.serve n).1.foldl shiftIn v, (s.serve n).2) := by
  induction n generalizing s v with
  | zero => rfl
  | succ n ih => exact ih s.readBit.2 (shiftIn v s.readBit.1)

theorem State.readInto_snd (s : State) (n : Nat) (v : Byte) : (s.readInto n v).2 = (s.serve n).2 := by
  rw [State.readInto_eq_serve]

/-- Bits shifted into a buffer stand below the bits it held, in order. -/
theorem lowBits_foldl_shiftIn {n : Nat} (u : Bits) (h : n + u.length ≤ 8) (v : Byte) :
    (List.range (n + u.length)).reverse.map (fun i => (u.foldl shiftIn v).getLsbD i) =
      (List.range n).reverse.map (fun i => v.getLsbD i) ++ u := by
  induction u generalizing n v with
  | nil => simp
  | cons b u ih =>
    rw [List.length_cons] at h ⊢
    rw [List.foldl_cons, show n + (u.length + 1) = n + 1 + u.length by omega,
      ih (by omega), lowBits_shiftIn (by omega), List.append_assoc, List.singleton_append]

/-- Eight bits shifted in are the byte's bits, the first one at the top. -/
theorem byteBits_foldl_shiftIn {u : Bits} (h : u.length = 8) (v : Byte) :
    byteBits (u.foldl shiftIn v) = u := by
  have hlow := lowBits_foldl_shiftIn (n := 0) u (by omega) v
  rw [Nat.zero_add, h] at hlow
  rw [byteBits_eq_lowBits, hlow]
  rfl

theorem byteBits_injective : Function.Injective byteBits := by
  intro x y h
  refine BitVec.eq_of_getLsbD_eq fun p hp => ?_
  have hbit := congrArg (fun u => u.getD (7 - p) false) h
  simp only [getD_byteBits (show 7 - p < 8 by omega)] at hbit
  rwa [show 7 - (7 - p) = p by omega] at hbit

/-- The byte with the `k` low bits of `w` on top and the high bits of `v` below: what the packer with `k`
bits held makes of `v`. -/
theorem byte_eq_of_spanning {k : Nat} (hk : k < 8) {x v w : Byte}
    (h : byteBits x ++ (List.range k).reverse.map (fun i => v.getLsbD i) =
      (List.range k).reverse.map (fun i => w.getLsbD i) ++ byteBits v) :
    x = w <<< (8 - k) ||| v >>> k :=
  byte_eq_of_stream (s := { State.reset with wbuf := w, wcnt := k })
    (t := { State.reset with wbuf := v, wcnt := k }) hk h

/-- With eight bits available RD_BYTE's byte holds the first eight bits to serve, and the others stay. -/
theorem State.readInto_eight {s : State} (h : 8 ≤ s.availBits) :
    byteBits (s.readInto 8 0#8).1 = s.pendingBits.take 8 ∧
      (s.readInto 8 0#8).2.pendingBits = s.pendingBits.drop 8 := by
  obtain ⟨hserved, hleft⟩ := State.serve_eq h
  rw [State.readInto_eq_serve]
  refine ⟨?_, hleft⟩
  have hlen : (s.serve 8).1.length = 8 := by simp [hserved, s.length_pendingBits, h]
  rw [byteBits_foldl_shiftIn hlen, hserved]

/-- From a full RBUF the byte is RBUF's, and nothing is taken from INQ. -/
theorem State.readInto_eight_full {s : State} (h : s.rcnt = 8) :
    s.readInto 8 0#8 = (s.rbuf, { s with rcnt := 0 }) := by
  obtain ⟨hbyte, -⟩ := State.readInto_eight (s := s) (by rw [State.availBits]; omega)
  refine Prod.ext (byteBits_injective ?_) ?_
  · rw [hbyte, State.pendingBits, h, ← byteBits_eq_lowBits]
    exact List.take_left' rfl
  · rw [State.readInto_snd, State.serve_held h.ge, h]

/-- From an RBUF that is not full the byte spans RBUF and INQ's first byte, which is taken. -/
theorem State.readInto_eight_spanning {s : State} {v : Byte} {q : List Byte} (h : s.rcnt < 8)
    (hq : s.inq = v :: q) :
    s.readInto 8 0#8 =
      (s.rbuf <<< (8 - s.rcnt) ||| v >>> s.rcnt,
        { s with rbuf := v, inq := q, inCount := s.inCount + 1 }) := by
  have hstate : (s.readInto 8 0#8).2 = { s with rbuf := v, inq := q, inCount := s.inCount + 1 } := by
    rw [State.readInto_snd, State.serve_eight_spanning h hq]
  refine Prod.ext (byte_eq_of_spanning h ?_) hstate
  obtain ⟨hbyte, hleft⟩ := State.readInto_eight (s := s) (by simp [State.availBits, hq]; omega)
  have hstream : byteBits (s.readInto 8 0#8).1 ++ (s.readInto 8 0#8).2.pendingBits = s.pendingBits := by
    rw [hbyte, hleft, List.take_append_drop]
  rw [hstate, State.pendingBits, State.pendingBits, hq, List.flatMap_cons, ← List.append_assoc,
    ← List.append_assoc] at hstream
  exact List.append_cancel_right hstream

/-! ### The bodies of the reading commands -/

theorem commandBody_rdBit_served {s : State} (h : s.bitAvail = true) :
    commandBody .rdBit s = s.readBit.2.setData (bitByte s.readBit.1) :=
  if_pos h

theorem commandBody_rdBit_ended {s : State} (h : s.bitAvail = false) :
    commandBody .rdBit s = s.setEos := by
  simp [commandBody, h]

theorem commandBody_rdByte_served {s : State} (h : 8 ≤ s.availBits) :
    commandBody .rdByte s = (s.readInto 8 0#8).2.setData (s.readInto 8 0#8).1 :=
  if_pos h

theorem commandBody_rdByte_ended {s : State} (h : s.availBits = 0) :
    commandBody .rdByte s = s.setEos := by
  simp [commandBody, h]

theorem commandBody_rdByte_truncated {s : State} (hpos : 0 < s.availBits) (hlt : s.availBits < 8) :
    commandBody .rdByte s = { s with rcnt := 0 }.raise .trunc .cmd (encode .rdByte) := by
  simp [commandBody, not_le.2 hlt, hpos.ne']

/-- A command that is not enabled holds (42_reader.md R152, R153). -/
theorem exec_holds {i : Instr} {s : State} (hr : s.Runs) (hi : i ≠ .srst)
    (h : commandEnabled i s = false) : exec i s = .next s := by
  rw [exec_eq hi, h, State.issue_holds hr]

/-- A command that only reports the end of the stream does that and leaves everything else. -/
theorem exec_setEos {i : Instr} {s : State} (hr : s.Runs) (he : commandEnabled i s = true)
    (hb : commandBody i s.takeWord = s.takeWord.setEos) (hs : i ≠ .srst) (hc : ∀ c, i ≠ .setctrl c) :
    ∃ t, exec i s = .next t ∧ t.result = ⟨true, 0⟩ ∧ SameReader s t ∧ SameSeqs s t ∧
      SamePacker s t ∧ SameOut s t ∧ SameDecoder s t ∧ SameErrors s t ∧ CommandFrame s t := by
  obtain ⟨hexec, hframe⟩ := exec_runs_framed hr he hb hs hc
  refine ⟨_, hexec, rfl, ?_, ?_, ?_, ?_, ?_, ?_, hframe⟩
  all_goals
    and_intros
    all_goals rfl

/-- `ReadBit` leaves the other units. -/
theorem State.readBit_sameUnits (s : State) :
    SameSeqs s s.readBit.2 ∧ SamePacker s s.readBit.2 ∧ SameOut s s.readBit.2 ∧
      SameDecoder s s.readBit.2 ∧ SameErrors s s.readBit.2 := by
  obtain ⟨v, c, q, n, h⟩ := s.readBit_frame
  rw [h]
  and_intros
  all_goals rfl

/-- RD_BYTE's run of `ReadBit`s and its result leave IN_END and the other units. -/
theorem State.readInto_setData_sameUnits (s : State) (k : Nat) (b w : Byte) :
    ((s.readInto k b).2.setData w).inEnd = s.inEnd ∧ SameSeqs s ((s.readInto k b).2.setData w) ∧
      SamePacker s ((s.readInto k b).2.setData w) ∧ SameOut s ((s.readInto k b).2.setData w) ∧
      SameDecoder s ((s.readInto k b).2.setData w) ∧ SameErrors s ((s.readInto k b).2.setData w) := by
  obtain ⟨v, c, q, n, h⟩ := s.readInto_frame k b
  rw [h]
  and_intros
  all_goals rfl

/-- Settles O38: the body is one `ReadBit`, or the report of the end, or the command holds. -/
theorem rdBitServesOneBit : Obligations.RdBitServesOneBit := by
  intro s hr
  refine ⟨rfl, fun hb => ?_, fun he => ?_, fun hw => ?_⟩
  · obtain ⟨hexec, hframe⟩ := exec_runs_framed hr (by simp [commandEnabled, hb])
      (commandBody_rdBit_served (s := s.takeWord) hb) nofun nofun
    obtain ⟨hseqs, hpack, hout, hdec, herr⟩ := s.takeWord.readBit_sameUnits
    exact ⟨_, _, hexec, State.servedBit_readBit (s := s.takeWord) hb, by simp [bitByte_eq_ite], hseqs,
      hpack, hout, hdec, herr, hframe⟩
  · obtain ⟨hcnt, hq, hend⟩ := s.rdEos_iff.1 he
    have hb : s.takeWord.bitAvail = false := s.bitAvail_eq_false_iff.2 ⟨hcnt, hq⟩
    obtain ⟨t, hexec, hres, hread, hseqs, hpack, hout, hdec, herr, hframe⟩ :=
      exec_setEos hr (by simp [commandEnabled, he]) (commandBody_rdBit_ended hb) nofun nofun
    exact ⟨t, hexec, hres, hread, hseqs, hpack, hout, hdec, herr, hframe,
      State.hostMove_push_ended hend⟩
  · obtain ⟨hcnt, hq, hend⟩ := s.rdWait_iff.1 hw
    refine ⟨exec_holds hr nofun ?_, fun v => ?_, ?_⟩
    · simp [commandEnabled, State.bitAvail, State.rdEos, hcnt, hq, hend]
    · rw [State.hostMove_push hend, State.bitAvail_iff_rcnt_or_inq]
      exact .inr (by simp)
    · exact (State.rdEos_iff _).2 ⟨hcnt, hq, rfl⟩

/-- Settles O39: the body is a run of eight `ReadBit`s, or the report of the end, or E_TRUNC after the
left-over bits, or the command holds. -/
theorem rdByteServesEightBits : Obligations.RdByteServesEightBits := by
  intro s hr hle
  refine ⟨rfl, fun h8 => ?_, fun h0 hend => ?_, fun hpos hlt hend => ?_, fun hlt hend => ?_⟩
  · obtain ⟨hexec, hframe⟩ := exec_runs_framed hr (by simp [commandEnabled, h8])
      (commandBody_rdByte_served (s := s.takeWord) h8) nofun nofun
    refine ⟨_, hexec, fun hfull => ?_, fun v q hcnt hq => ?_, ?_⟩
    · rw [State.readInto_eight_full (s := s.takeWord) hfull]
      exact ⟨rfl, rfl, rfl, rfl, rfl⟩
    · rw [State.readInto_eight_spanning (s := s.takeWord) hcnt hq]
      exact ⟨rfl, rfl, rfl, rfl, rfl⟩
    · obtain ⟨hend, hseqs, hpack, hout, hdec, herr⟩ :=
        s.takeWord.readInto_setData_sameUnits 8 0#8 (s.takeWord.readInto 8 0#8).1
      exact ⟨hend, hseqs, hpack, hout, hdec, herr, hframe⟩
  · exact exec_setEos hr (by simp [commandEnabled, hend])
      (commandBody_rdByte_ended (s := s.takeWord) h0) nofun nofun
  · have hexec := exec_runs (i := .rdByte) hr (by simp [commandEnabled, hend])
    rw [commandBody_rdByte_truncated (s := s.takeWord) hpos hlt] at hexec
    have hq : s.inq = [] := by
      rw [← List.length_eq_zero_iff]
      rw [State.availBits] at hlt
      omega
    obtain ⟨hrec, ⟨hrbuf, hrcnt, hinq, hinEnd, hinCount⟩, htook⟩ :=
      State.takeWord_raise_commandRaised (s := { s with rcnt := 0 }) hr.2 .trunc (encode .rdByte)
    exact ⟨_, hexec, hrec, hrcnt, hrbuf, hinq.trans hq, hinEnd.trans hend, hinCount, htook⟩
  · exact exec_holds hr nofun (by simp [commandEnabled, hend, not_le.2 hlt])

/-! ### Who takes bits off the input stream (42_reader.md R151) -/

/-- The unpacker and INQ are all the bits to serve come from. -/
theorem SameReader.pendingBits_eq {s t : State} (h : SameReader s t) :
    t.pendingBits = s.pendingBits := by
  obtain ⟨hrbuf, hrcnt, hinq, -, -⟩ := h
  simp only [State.pendingBits, hrbuf, hrcnt, hinq]

theorem State.raise_sameReader (s : State) (c : ErrCode) (r : ErrSrc) (i : BitVec 16) :
    SameReader s (s.raise c r i) := by
  simp [SameReader]

/-- A writing command leaves the unpacker before the flush and after it (41_writer.md R133). -/
theorem SameReader.whileStreaming {s t : State} (h : SameReader s t) (w : Word) :
    SameReader s (if s.wst = .streaming then t else s.raise .wrDone .cmd w) := by
  split
  · exact h
  · exact s.raise_sameReader _ _ _

/-- The body of a command other than RD_BIT, RD_BYTE and SRST leaves the unpacker and INQ. -/
theorem commandBody_sameReader {i : Instr} (s : State) (hbit : i ≠ .rdBit) (hbyte : i ≠ .rdByte)
    (hsrst : i ≠ .srst) : SameReader s (commandBody i s) := by
  cases i with
  | rdBit => exact absurd rfl hbit
  | rdByte => exact absurd rfl hbyte
  | srst => exact absurd rfl hsrst
  | nop | setctrl | bsqClr | bsqCopy => simp [commandBody, SameReader]
  | bsqPush | bsqPop | bsqGet | decSym =>
    simp only [commandBody]; split <;> simp [SameReader, State.startWalk]
  | bsqEmit sel =>
    obtain ⟨-, -, h, -⟩ := s.writeBits_sameUnits (s.seq sel)
    exact h.whileStreaming _
  | wrBit b =>
    obtain ⟨-, -, h, -⟩ := s.writeBits_sameUnits [b]
    exact h.whileStreaming _
  | wrByte v =>
    obtain ⟨-, -, h, -⟩ := s.writeBits_sameUnits (byteBits v)
    exact h.whileStreaming _
  | wrFlush =>
    obtain ⟨-, h, -⟩ := s.flush_sameUnits
    exact h.whileStreaming _

/-- Dropping what RBUF still holds drops bits at the front (42_reader.md R153). -/
theorem State.pendingBits_clearRcnt_suffix (s : State) :
    { s with rcnt := 0 }.pendingBits <:+ s.pendingBits :=
  List.suffix_append _ _

/-- The body of a command other than SRST takes bits off the front of the stream, or none. -/
theorem commandBody_pendingBits_suffix {i : Instr} (hi : i ≠ .srst) (s : State) :
    (commandBody i s).pendingBits <:+ s.pendingBits := by
  cases i with
  | srst => exact absurd rfl hi
  | rdBit =>
    cases hb : s.bitAvail with
    | true =>
      rw [commandBody_rdBit_served hb, State.pendingBits_readBit hb]
      exact List.suffix_cons _ _
    | false =>
      rw [commandBody_rdBit_ended hb]
      exact List.suffix_rfl
  | rdByte =>
    by_cases h8 : 8 ≤ s.availBits
    · obtain ⟨-, hleft⟩ := State.readInto_eight h8
      rw [commandBody_rdByte_served h8]
      exact hleft ▸ List.drop_suffix 8 s.pendingBits
    · by_cases h0 : s.availBits = 0
      · rw [commandBody_rdByte_ended h0]
        exact List.suffix_rfl
      · rw [commandBody_rdByte_truncated (Nat.pos_of_ne_zero h0) (not_le.1 h8),
          (State.raise_sameReader _ _ _ _).pendingBits_eq]
        exact s.pendingBits_clearRcnt_suffix
  | _ => rw [(commandBody_sameReader s (by simp) (by simp) hi).pendingBits_eq]

/-- Whatever CMD does with a command other than SRST, it takes bits off the front of the stream, or none. -/
theorem exec_pendingBits_suffix {i : Instr} {s t : State} (hi : i ≠ .srst) (h : exec i s = .next t) :
    t.pendingBits <:+ s.pendingBits := by
  obtain ⟨rfl, -⟩ | ⟨-, -, rfl⟩ | ⟨rfl, -⟩ | ⟨-, -, -, rfl⟩ := exec_cases h
  · exact List.suffix_rfl
  · exact List.suffix_rfl
  · exact absurd rfl hi
  · exact commandBody_pendingBits_suffix hi s.takeWord

theorem State.endOfInput_sameReader (s : State) : SameReader s s.endOfInput := by
  obtain h | h := s.endOfInput_cases
  all_goals simp [SameReader, h]

theorem State.litBit_sameReader (s : State) (b : Bool) : SameReader s (s.litBit b) := by
  obtain ⟨-, h⟩ | ⟨-, h⟩ := s.litBit_cases b
  all_goals simp [SameReader, h]

/-- A step of DEC leaves the stream or takes its first bit (43_decoder.md R173, R177). -/
theorem decTurn_pendingBits {s t : State} (h : decTurn s = .next t) :
    s.pendingBits = t.pendingBits ∨ s.pendingBits = s.readBit.1 :: t.pendingBits := by
  obtain ⟨-, rfl⟩ | ⟨-, rfl⟩ | ⟨-, rfl⟩ | ⟨-, v, rfl⟩ | ⟨-, -, -, rfl⟩ | ⟨-, -, hb, n, rfl⟩ |
    ⟨-, hb, rfl⟩ := decTurn_cases h
  · exact .inl rfl
  · exact .inl (s.raise_sameReader _ _ _).pendingBits_eq.symm
  · exact .inl rfl
  · exact .inl rfl
  · exact .inl s.endOfInput_sameReader.pendingBits_eq.symm
  · exact .inr (State.pendingBits_readBit hb)
  · rw [(s.readBit.2.litBit_sameReader s.readBit.1).pendingBits_eq]
    exact .inr (State.pendingBits_readBit hb)

/-- Settles O40: a command leaves a suffix of the bits to serve, and DEC all of them or all but the
first. -/
theorem readersTakeFromTheFront : Obligations.ReadersTakeFromTheFront := by
  refine ⟨fun i s t hi h => ?_, fun s t h => ?_⟩
  · obtain ⟨u, hu⟩ := exec_pendingBits_suffix hi h
    exact ⟨u, hu.symm⟩
  · obtain hsame | hfirst := decTurn_pendingBits h
    · exact ⟨[], hsame, Nat.zero_le 1⟩
    · exact ⟨[s.readBit.1], hfirst, le_rfl⟩

/-- Settles O41, by induction on the number of bits, each of which is the first still to serve. -/
theorem servedBitsAreThePendingBits : Obligations.ServedBitsAreThePendingBits :=
  fun _ _ h => State.serve_eq h

end Sys2Proof.Machine
end

section
/-! SUPPORT. The decoder (43_decoder.md): DEC's step as an equation for each case of R173 to R180, what a
walk along a path and a run of literal bits lead to, and the statements about DEC_SYM, DEC and `ins_done`. -/

namespace Sys2Proof.Machine

/-! ### The class of a node word (20_memory.md R62) -/

theorem classify_nytLeaf {w : NodeWord} (hl : nodeLeaf w = true) (hn : nodeNyt w = true) :
    classify w = .nytLeaf := by
  simp [classify, hl, hn]

theorem classify_symbolLeaf {w : NodeWord} (hl : nodeLeaf w = true) (hn : nodeNyt w = false) :
    classify w = .symbolLeaf (nodeSymbol w) := by
  simp [classify, hl, hn]

theorem classify_internal {w : NodeWord} (hl : nodeLeaf w = false) (hn : nodeNyt w = false) :
    classify w = .internal (nodeLeft w) (nodeRight w) := by
  simp [classify, hl, hn]

theorem classify_malformed {w : NodeWord} (hl : nodeLeaf w = false) (hn : nodeNyt w = true) :
    classify w = .malformed := by
  simp [classify, hl, hn]

/-! ### DEC's turn, by DST -/

/-- In WALK DEC acts on the word at NODE (43_decoder.md R172). -/
theorem decTurn_walk {s : State} {w : NodeWord} (hd : s.dst = .walk) (hw : s.tree.read s.node = w) :
    decTurn s = .next (s.walkOn w) := by
  simp [decTurn, hd, hw]

theorem decTurn_lit {s : State} (hd : s.dst = .lit) : decTurn s = .next s.litStep := by
  simp [decTurn, hd]

/-- Outside WALK and LIT DEC has no step (43_decoder.md R182). -/
theorem decTurn_stopped {s : State} (hw : s.dst ≠ .walk) (hl : s.dst ≠ .lit) :
    decTurn s = .next s := by
  cases hd : s.dst with
  | walk => exact absurd hd hw
  | lit => exact absurd hd hl
  | _ => simp [decTurn, hd]

/-! ### A WALK step, by the class of the word -/

theorem State.walkOn_malformed {s : State} {w : NodeWord} (hc : classify w = .malformed) :
    s.walkOn w = s.raiseTree := by
  simp [State.walkOn, hc]

/-- The escape code is complete (43_decoder.md R174). -/
theorem State.walkOn_nytLeaf {s : State} {w : NodeWord} (hc : classify w = .nytLeaf) :
    s.walkOn w = { s with dst := .lit } := by
  simp [State.walkOn, hc]

/-- A symbol leaf at the root is malformed (43_decoder.md R175). -/
theorem State.walkOn_symbolLeaf_root {s : State} {w : NodeWord} {v : Byte}
    (hc : classify w = .symbolLeaf v) (h0 : s.depth = 0) : s.walkOn w = s.raiseTree := by
  simp [State.walkOn, hc, h0]

theorem State.walkOn_symbolLeaf {s : State} {w : NodeWord} {v : Byte}
    (hc : classify w = .symbolLeaf v) (h0 : s.depth ≠ 0) : s.walkOn w = s.deliver v false := by
  simp [State.walkOn, hc, h0]

/-- An internal node at WALK_MAX is malformed (43_decoder.md R175). -/
theorem State.walkOn_internal_limit {s : State} {w : NodeWord} {left right : Handle}
    (hc : classify w = .internal left right) (hm : s.depth = 256) : s.walkOn w = s.raiseTree := by
  simp [State.walkOn, hc, hm]

theorem State.walkOn_internal {s : State} {w : NodeWord} {left right : Handle}
    (hc : classify w = .internal left right) (hm : s.depth ≠ 256) :
    s.walkOn w = s.descend left right := by
  simp [State.walkOn, hc, hm]

/-! ### A step that needs a bit, by what the reader holds -/

theorem State.bitAvail_eq_false_of_rdEos {s : State} (h : s.rdEos = true) : s.bitAvail = false := by
  obtain ⟨hcnt, hq, -⟩ := s.rdEos_iff.1 h
  exact s.bitAvail_eq_false_iff.2 ⟨hcnt, hq⟩

/-- RdWait is the case that is neither of the others (10_state.md R43). -/
theorem State.rdWait_iff_not (s : State) :
    s.rdWait = true ↔ s.bitAvail = false ∧ s.rdEos = false := by
  simp [State.rdWait]

/-- The state after the walk's bit: the child it leads to, one deeper (43_decoder.md R173). -/
def State.walkBit (s : State) (left right : Handle) : State :=
  { s.readBit.2.countBit s.readBit.1 with
    node := if s.readBit.1 then right else left
    depth := s.depth + 1 }

theorem State.descend_served {s : State} (hb : s.bitAvail = true) (left right : Handle) :
    s.descend left right = s.walkBit left right := by
  simp [State.descend, State.walkBit, hb]

theorem State.descend_ended {s : State} (he : s.rdEos = true) (left right : Handle) :
    s.descend left right = s.endOfInput := by
  simp [State.descend, State.bitAvail_eq_false_of_rdEos he, he]

theorem State.descend_waits {s : State} (hw : s.rdWait = true) (left right : Handle) :
    s.descend left right = s := by
  obtain ⟨hb, he⟩ := s.rdWait_iff_not.1 hw
  simp [State.descend, hb, he]

theorem State.litStep_served {s : State} (hb : s.bitAvail = true) :
    s.litStep = s.readBit.2.litBit s.readBit.1 := by
  simp [State.litStep, hb]

theorem State.litStep_ended {s : State} (he : s.rdEos = true) : s.litStep = s.endOfInput := by
  simp [State.litStep, State.bitAvail_eq_false_of_rdEos he, he]

theorem State.litStep_waits {s : State} (hw : s.rdWait = true) : s.litStep = s := by
  obtain ⟨hb, he⟩ := s.rdWait_iff_not.1 hw
  simp [State.litStep, hb, he]

/-! ### The end of the input, and errors -/

/-- The partial codeword can be padding (43_decoder.md R179). -/
theorem State.endOfInput_clean {s : State} (h : s.cwBits = 0 ∨ (s.cwBits ≤ 7 ∧ s.cwZero = true)) :
    s.endOfInput = { s with dst := .done, result := ⟨true, 0⟩ } :=
  if_pos h

/-- The partial codeword is cut short (43_decoder.md R179). -/
theorem State.endOfInput_truncated {s : State}
    (h : ¬ (s.cwBits = 0 ∨ (s.cwBits ≤ 7 ∧ s.cwZero = true))) :
    s.endOfInput = s.raise .trunc .dec (BitVec.ofNat 16 s.cwBits) :=
  if_neg h

/-- With ERR = 0 raising writes the record and DST, and nothing else (60_exceptions.md R232). -/
theorem State.raise_recorded {s : State} (h : s.err = false) (c : ErrCode) (r : ErrSrc)
    (i : BitVec 16) :
    Recorded s (s.raise c r i) c r i ∧ SameReader s (s.raise c r i) ∧ SamePort s (s.raise c r i) := by
  rw [State.raise_of_ok h]
  and_intros
  all_goals intros; rfl

theorem State.raise_dst {s : State} (h : s.err = false) (c : ErrCode) (r : ErrSrc) (i : BitVec 16) :
    (s.raise c r i).dst = .err := by
  rw [State.raise_of_ok h]

/-! ### What a consumed bit leaves -/

@[simp] theorem State.readBit_result (s : State) : s.readBit.2.result = s.result := by
  obtain ⟨v, c, q, n, h⟩ := s.readBit_frame
  rw [h]

@[simp] theorem State.readBit_tree (s : State) : s.readBit.2.tree = s.tree := by
  obtain ⟨v, c, q, n, h⟩ := s.readBit_frame
  rw [h]

/-- The bits left after one is served (42_reader.md R150). -/
theorem State.availBits_readBit {s : State} (h : s.bitAvail = true) :
    s.readBit.2.availBits + 1 = s.availBits := by
  rw [← State.length_pendingBits, ← State.length_pendingBits, State.pendingBits_readBit h,
    List.length_cons]

/-- When a bit is next in the stream, `ReadBit` serves it and leaves the others. -/
theorem State.readBit_of_pendingBits {s : State} {b : Bool} {u : Bits}
    (h : s.pendingBits = b :: u) :
    s.bitAvail = true ∧ s.readBit.1 = b ∧ s.readBit.2.pendingBits = u := by
  have hb : s.bitAvail = true := by
    rw [s.bitAvail_iff, ← s.length_pendingBits, h]
    exact Nat.succ_pos _
  rw [State.pendingBits_readBit hb, List.cons.injEq] at h
  exact ⟨hb, h⟩

/-- A step that goes on from the served state without touching the unpacker has served the same bit. -/
theorem ServedBit.of_sameReader {s t u : State} {b : Bool} (h : ServedBit s t b)
    (hr : SameReader t u) : ServedBit s u b := by
  obtain ⟨hbuf, hcnt, hinq, hend, hcount⟩ := hr
  simpa only [ServedBit, hbuf, hcnt, hinq, hend, hcount] using h

/-- Before the eighth bit DEC stays in LIT (43_decoder.md R177). -/
theorem State.litBit_more {s : State} (h : s.litCnt ≠ 7) (b : Bool) :
    s.litBit b = { s.countBit b with lit := shiftIn s.lit b, litCnt := s.litCnt + 1 } := by
  obtain ⟨-, ht⟩ | ⟨h8, -⟩ := s.litBit_cases b
  · exact ht
  · exact absurd (Nat.succ.inj h8) h

/-- The eighth bit completes a new symbol (43_decoder.md R178). -/
theorem State.litBit_eighth {s : State} (h : s.litCnt = 7) (b : Bool) :
    s.litBit b =
      { s.countBit b with lit := shiftIn s.lit b, litCnt := s.litCnt + 1 }.deliver
        (shiftIn s.lit b) true := by
  obtain ⟨hne, -⟩ | ⟨-, ht⟩ := s.litBit_cases b
  · exact absurd (congrArg Nat.succ h) hne
  · exact ht

/-- What a literal bit writes and leaves, whether it is the eighth or not (43_decoder.md R177). -/
theorem State.litBit_fields (s : State) (b : Bool) :
    (s.litBit b).lit = shiftIn s.lit b ∧ (s.litBit b).litCnt = s.litCnt + 1 ∧
      (s.litBit b).cwBits = s.cwBits + 1 ∧ (s.litBit b).cwZero = (s.cwZero && !b) ∧
      (s.litBit b).node = s.node ∧ (s.litBit b).depth = s.depth ∧
      (s.litBit b).symCount = s.symCount ∧ SameErrors s (s.litBit b) := by
  obtain ⟨-, h⟩ | ⟨-, h⟩ := s.litBit_cases b
  all_goals
    rw [h]
    and_intros
    all_goals rfl

/-! ### DEC_SYM and `ins_done` -/

theorem commandBody_decSym_idle {s : State} (h : s.dst = .idle) :
    commandBody .decSym s = s.startWalk := by
  simp [commandBody, h]

theorem commandBody_decSym_done {s : State} (h : s.dst = .done) :
    commandBody .decSym s = s.setEos := by
  simp [commandBody, h]

theorem State.insDone_wait {s : State} (h : s.dst = .wait) :
    s.insDone = { s with dst := .idle, symCount := s.symCount + 1 } :=
  if_pos h

theorem State.insDone_elsewhere {s : State} (h : s.dst ≠ .wait) :
    s.insDone = s.raise .proto .ins 0 :=
  if_neg h

/-- Settles O44: the body starts the walk in IDLE and reports the end of the stream in DONE. -/
theorem decSymStartsACodeword : Obligations.DecSymStartsACodeword := by
  intro s hr
  refine ⟨rfl, fun hd => ?_, fun hd => ?_⟩
  · obtain ⟨hexec, hframe⟩ :=
      exec_runs_framed hr rfl (commandBody_decSym_idle (s := s.takeWord) hd) nofun nofun
    refine ⟨_, hexec, rfl, rfl, rfl, rfl, rfl, rfl, rfl, rfl, rfl, rfl, rfl, ?_, ?_, ?_, ?_, ?_, hframe⟩
    all_goals
      and_intros
      all_goals rfl
  · obtain ⟨t, hexec, hres, hread, hseqs, hpack, hout, hdec, herr, hframe⟩ :=
      exec_setEos hr rfl (commandBody_decSym_done (s := s.takeWord) hd) nofun nofun
    exact ⟨t, hexec, hres, hdec, hread, hseqs, hpack, hout, herr, hframe⟩

/-- Settles O51: WAIT is the one state that expects the acknowledgement; elsewhere it raises. -/
theorem insDoneAcknowledgesTheSymbol : Obligations.InsDoneAcknowledgesTheSymbol := by
  intro s
  refine ⟨State.insDone_wait, fun hd he => ?_, fun hd he => ?_⟩
  · rw [State.insDone_elsewhere hd]
    exact State.raise_recorded he _ _ _
  · rw [State.insDone_elsewhere hd, State.raise_of_err he]

/-! ### The statements about one step of DEC -/

/-- A turn of DEC that raises records the error from DEC and leaves the unpacker and the port. -/
theorem decTurn_raises {s : State} {c : ErrCode} {i : BitVec 16} (he : s.err = false)
    (h : decTurn s = .next (s.raise c .dec i)) : ∃ t, decTurn s = .next t ∧ DecRaised s t c i :=
  ⟨_, h, State.raise_recorded he c .dec i⟩

/-- Settles O47: each of the three cases is a branch of the WALK step that raises at NODE. -/
theorem malformedTreeRaisesTree : Obligations.MalformedTreeRaisesTree := by
  intro s w hd he hw hcase
  refine decTurn_raises he ((decTurn_walk hd hw).trans (congrArg _ ?_))
  obtain ⟨hl, hn⟩ | ⟨hl, hn, h0⟩ | ⟨hl, hn, hm⟩ := hcase
  · exact State.walkOn_malformed (classify_malformed hl hn)
  · exact State.walkOn_symbolLeaf_root (classify_symbolLeaf hl hn) h0
  · exact State.walkOn_internal_limit (classify_internal hl hn) hm

/-- Settles O45: at the limit the tree is malformed; below it the step is `descend`, by what the reader
holds. -/
theorem walkFollowsTheBit : Obligations.WalkFollowsTheBit := by
  intro s w hd he hw hl hn
  have hturn (hm : s.depth ≠ 256) : decTurn s = .next (s.descend (nodeLeft w) (nodeRight w)) := by
    rw [decTurn_walk hd hw, State.walkOn_internal (classify_internal hl hn) hm]
  refine ⟨fun hm => ?_, fun hm hb => ?_, fun hm hwait => ?_⟩
  · exact malformedTreeRaisesTree s w hd he hw (.inr (.inr ⟨hl, hn, hm⟩))
  · have hstep := hturn hm
    rw [State.descend_served hb] at hstep
    obtain ⟨-, -, -, ⟨hdst, -, -, hcw, hzero, hlit, hcnt, hsym, hnew, hcount⟩, herr⟩ :=
      s.readBit_sameUnits
    exact ⟨_, s.readBit.1, hstep, State.servedBit_readBit hb, hdst.trans hd, rfl, rfl,
      congrArg (· + 1) hcw, congrArg (· && !s.readBit.1) hzero, hlit, hcnt, hsym, hnew, hcount,
      s.readBit_result, herr, decTurn_frame hstep⟩
  · rw [hturn hm, State.descend_waits hwait]

/-- In WALK no literal bit is held (10_state.md R28). -/
theorem State.DecoderOk.no_literal {s : State} (h : s.DecoderOk) (hd : s.dst = .walk) :
    s.lit = 0 ∧ s.litCnt = 0 := by
  obtain ⟨-, -, -, hwalk, -, hfit, -⟩ := h
  have hcnt := hwalk hd
  rw [hcnt] at hfit
  exact ⟨BitVec.eq_of_toNat_eq (Nat.lt_one_iff.1 hfit), hcnt⟩

/-- Settles O46: the step writes DST only. -/
theorem walkAtNytEntersLit : Obligations.WalkAtNytEntersLit := by
  intro s w hd hw hl hn
  have hstep := decTurn_walk hd hw
  rw [State.walkOn_nytLeaf (classify_nytLeaf hl hn)] at hstep
  refine ⟨_, hstep, rfl, ?_, ?_, ?_, rfl, decTurn_frame hstep, fun hok => hok.no_literal hd⟩
  all_goals
    and_intros
    all_goals rfl

/-- Settles O48: the step delivers the word's symbol. -/
theorem walkAtSymbolLeafDelivers : Obligations.WalkAtSymbolLeafDelivers := by
  intro s w hd hw hl hn hpos
  have hstep := decTurn_walk hd hw
  rw [State.walkOn_symbolLeaf (classify_symbolLeaf hl hn) (Nat.pos_iff_ne_zero.1 hpos)] at hstep
  refine ⟨_, hstep, rfl, rfl, rfl, rfl, rfl, rfl, rfl, rfl, rfl, rfl, rfl, ?_, ?_, decTurn_frame hstep⟩
  all_goals
    and_intros
    all_goals rfl

/-- Settles O49: the served bit is a literal bit, the eighth or not. -/
theorem litCollectsTheLiteral : Obligations.LitCollectsTheLiteral := by
  intro s hd
  refine ⟨fun hb => ?_, fun hwait => ?_⟩
  · have hstep := decTurn_lit hd
    rw [State.litStep_served hb] at hstep
    obtain ⟨-, -, -, ⟨hdst, hnode, hdepth, hcw, hzero, hlit, hcnt, hsym, hnew, hcount⟩, herr⟩ :=
      s.readBit_sameUnits
    obtain ⟨hlit', hcnt', hcw', hzero', hnode', hdepth', hcount', herr'⟩ :=
      s.readBit.2.litBit_fields s.readBit.1
    refine ⟨_, s.readBit.1, hstep,
      (State.servedBit_readBit hb).of_sameReader (s.readBit.2.litBit_sameReader _),
      by rw [hlit', hlit, shiftIn, bitByte_eq_ite], by rw [hcnt', hcnt], by rw [hcw', hcw],
      by rw [hzero', hzero], hnode'.trans hnode, hdepth'.trans hdepth, hcount'.trans hcount,
      fun h7 => ?_, fun h7 => ?_, ?_, decTurn_frame hstep⟩
    · rw [State.litBit_eighth (hcnt.trans h7)]
      exact ⟨rfl, rfl, rfl, rfl⟩
    · rw [State.litBit_more (hcnt ▸ h7)]
      exact ⟨hdst.trans hd, hsym, hnew, s.readBit_result⟩
    · simp only [SameErrors, herr', herr, and_self]
  · rw [decTurn_lit hd, State.litStep_waits hwait]

/-- Settles O50: at the end of the stream both kinds of step that need a bit are `EndOfInput`. -/
theorem endOfInputTellsPaddingFromTruncation : Obligations.EndOfInputTellsPaddingFromTruncation := by
  intro s herr hend hneeds
  have hstep : decTurn s = .next s.endOfInput := by
    obtain hd | ⟨hd, hm, hl, hn⟩ := hneeds
    · rw [decTurn_lit hd, State.litStep_ended hend]
    · rw [decTurn_walk hd rfl, State.walkOn_internal (classify_internal hl hn) hm,
        State.descend_ended hend]
  refine ⟨fun hpad => ?_, fun hcut => ?_⟩
  · rw [State.endOfInput_clean hpad] at hstep
    refine ⟨_, hstep, rfl, rfl, ?_, ?_, ?_, decTurn_frame hstep⟩
    all_goals
      and_intros
      all_goals rfl
  · rw [State.endOfInput_truncated hcut] at hstep
    exact decTurn_raises herr hstep

/-! ### When DEC's step is enabled (43_decoder.md R182) -/

theorem State.readerAnswers_iff (s : State) :
    s.readerAnswers = true ↔ s.bitAvail = true ∨ s.rdEos = true := by
  simp [State.readerAnswers]

/-- The reader does not answer iff RdWait holds (10_state.md R43). -/
theorem State.readerAnswers_eq_false_iff (s : State) :
    s.readerAnswers = false ↔ s.rdWait = true := by
  simp [State.readerAnswers, State.rdWait]

theorem State.decEnabled_lit {s : State} (hd : s.dst = .lit) : s.decEnabled = s.readerAnswers := by
  simp [State.decEnabled, hd]

theorem State.decEnabled_stopped {s : State} (hw : s.dst ≠ .walk) (hl : s.dst ≠ .lit) :
    s.decEnabled = false := by
  cases hd : s.dst with
  | walk => exact absurd hd hw
  | lit => exact absurd hd hl
  | _ => simp [State.decEnabled, hd]

theorem State.decEnabled_walk_iff {s : State} {w : NodeWord} (hd : s.dst = .walk)
    (hw : s.tree.read s.node = w) :
    s.decEnabled = true ↔
      nodeLeaf w = true ∨ nodeNyt w = true ∨ s.depth = 256 ∨ s.readerAnswers = true := by
  cases hl : nodeLeaf w with
  | true => cases hn : nodeNyt w <;> simp [State.decEnabled, hd, hw, classify, hl, hn]
  | false => cases hn : nodeNyt w <;> simp [State.decEnabled, hd, hw, classify, hl, hn]

/-- Where DEC's step is not enabled its turn changes nothing (43_decoder.md R182). -/
theorem decTurn_of_not_decEnabled {s : State} (h : s.decEnabled = false) : decTurn s = .next s := by
  by_cases hw : s.dst = .walk
  · have hno := mt (State.decEnabled_walk_iff hw rfl).2 (Bool.not_eq_true _ ▸ h)
    simp only [not_or, Bool.not_eq_true] at hno
    obtain ⟨hl, hn, hm, hans⟩ := hno
    rw [decTurn_walk hw rfl, State.walkOn_internal (classify_internal hl hn) hm,
      State.descend_waits (s.readerAnswers_eq_false_iff.1 hans)]
  · by_cases hl : s.dst = .lit
    · rw [State.decEnabled_lit hl, s.readerAnswers_eq_false_iff] at h
      rw [decTurn_lit hl, State.litStep_waits h]
    · exact decTurn_stopped hw hl

/-- Settles O52: the enabling by DST, and the turn at a word INS never wrote. -/
theorem decStepIsEnabledExactlyAsTabled : Obligations.DecStepIsEnabledExactlyAsTabled := by
  intro s
  refine ⟨fun w hd hw => ?_, fun hd => ?_, State.decEnabled_stopped, decTurn_of_not_decEnabled,
    decTurn_completes s, fun ⟨hd, hw⟩ => ?_⟩
  · rw [State.decEnabled_walk_iff hd hw, s.readerAnswers_iff]
  · rw [State.decEnabled_lit hd, s.readerAnswers_iff]
  · have hfree := Memory.read_unwritten hw
    exact ⟨hfree, decTurn_walk hd hfree⟩

/-! ### Progress (43_decoder.md R183) -/

theorem State.decStepsLeft_walk {s : State} (hd : s.dst = .walk) :
    s.decStepsLeft = 257 - s.depth + 8 := by
  simp [State.decStepsLeft, hd]

theorem State.decStepsLeft_lit {s : State} (hd : s.dst = .lit) : s.decStepsLeft = 8 - s.litCnt := by
  simp [State.decStepsLeft, hd]

theorem State.decStepsLeft_stopped {s : State} (hw : s.dst ≠ .walk) (hl : s.dst ≠ .lit) :
    s.decStepsLeft = 0 := by
  cases hd : s.dst with
  | walk => exact absurd hd hw
  | lit => exact absurd hd hl
  | _ => simp [State.decStepsLeft, hd]

/-- While DEC walks or reads a literal it has a step left, and at most 257 + 8 of them. -/
theorem State.decStepsLeft_bounds {s : State} (hok : s.DecoderOk) (hd : s.dst = .walk ∨ s.dst = .lit) :
    0 < s.decStepsLeft ∧ s.decStepsLeft ≤ 257 + 8 := by
  obtain hd | hd := hd
  · rw [State.decStepsLeft_walk hd]
    omega
  · obtain ⟨-, -, -, -, hlit, -⟩ := hok
    have hlt : s.litCnt < 8 := hlit hd
    rw [State.decStepsLeft_lit hd]
    omega

/-- DEC's step from `s` to `t` consumed a bit or changed DST, and the count of steps left fell. -/
def Progresses (s t : State) : Prop :=
  (t.availBits + 1 = s.availBits ∨ t.dst ≠ s.dst) ∧ t.decStepsLeft < s.decStepsLeft

/-- A step that takes DEC out of WALK and LIT leaves no step to count. -/
theorem Progresses.of_stopped {s t : State} (hok : s.DecoderOk) (hd : s.dst = .walk ∨ s.dst = .lit)
    (hw : t.dst ≠ .walk) (hl : t.dst ≠ .lit) : Progresses s t := by
  obtain ⟨hpos, -⟩ := State.decStepsLeft_bounds hok hd
  refine ⟨.inr ?_, by rwa [State.decStepsLeft_stopped hw hl]⟩
  obtain hd | hd := hd
  · exact hd ▸ hw
  · exact hd ▸ hl

/-- A bit consumed in WALK below WALK_MAX makes the path longer by one (43_decoder.md R173). -/
theorem Progresses.of_walk {s t : State} (hs : s.dst = .walk) (ht : t.dst = .walk)
    (hbit : t.availBits + 1 = s.availBits) (hdepth : t.depth = s.depth + 1) (hm : s.depth < 256) :
    Progresses s t := by
  refine ⟨.inl hbit, ?_⟩
  rw [State.decStepsLeft_walk hs, State.decStepsLeft_walk ht]
  omega

/-- A bit consumed in LIT leaves one fewer of the eight to come (43_decoder.md R177). -/
theorem Progresses.of_lit {s t : State} (hs : s.dst = .lit) (ht : t.dst = .lit)
    (hbit : t.availBits + 1 = s.availBits) (hcnt : t.litCnt = s.litCnt + 1) (hm : s.litCnt < 8) :
    Progresses s t := by
  refine ⟨.inl hbit, ?_⟩
  rw [State.decStepsLeft_lit hs, State.decStepsLeft_lit ht]
  omega

/-- The escape code leaves the eight literal bits to read (43_decoder.md R174). -/
theorem Progresses.of_escape {s t : State} (hs : s.dst = .walk) (ht : t.dst = .lit)
    (hm : s.depth ≤ 256) : Progresses s t := by
  refine ⟨.inr (by simp [hs, ht]), ?_⟩
  rw [State.decStepsLeft_walk hs, State.decStepsLeft_lit ht]
  omega

/-- The end of the input takes DEC out of WALK and LIT (43_decoder.md R179). -/
theorem State.endOfInput_dst {s : State} (he : s.err = false) :
    s.endOfInput.dst = .done ∨ s.endOfInput.dst = .err := by
  obtain h | h := s.endOfInput_cases
  · exact .inl (by rw [h])
  · exact .inr (by rw [h, State.raise_dst he])

/-- A LIT step that has a bit makes progress, whether it completes the literal or not (43_decoder.md R177,
R178). -/
theorem Progresses.litBit {s : State} (hok : s.DecoderOk) (hd : s.dst = .lit)
    (hb : s.bitAvail = true) : Progresses s (s.readBit.2.litBit s.readBit.1) := by
  obtain ⟨-, -, -, ⟨hdst, -, -, -, -, -, hcnt, -⟩, -⟩ := s.readBit_sameUnits
  by_cases h7 : s.litCnt = 7
  · rw [State.litBit_eighth (hcnt.trans h7)]
    exact .of_stopped hok (.inr hd) nofun nofun
  · obtain ⟨-, -, -, -, hmore, -⟩ := hok
    rw [State.litBit_more (hcnt ▸ h7)]
    exact .of_lit hd (hdst.trans hd) (State.availBits_readBit hb) (congrArg (· + 1) hcnt) (hmore hd)

/-- Every enabled step of DEC in the invariant makes progress. -/
theorem decTurn_progresses {s t : State} (hi : s.Inv) (hen : s.decEnabled = true)
    (h : decTurn s = .next t) : Progresses s t := by
  obtain ⟨-, -, -, hok, -⟩ := id hi
  have herr (hd : s.dst = .walk ∨ s.dst = .lit) : s.err = false :=
    hi.err_eq_false fun hx => by simp [hx] at hd
  obtain ⟨hno, -⟩ | ⟨hd, rfl⟩ | ⟨hd, rfl⟩ | ⟨hd, v, rfl⟩ | ⟨hd, -, -, rfl⟩ | ⟨hd, hm, hb, n, rfl⟩ |
    ⟨hd, hb, rfl⟩ := decTurn_cases h
  · simp [hno] at hen
  · have hdst : s.raiseTree.dst = .err := State.raise_dst (herr (.inl hd)) _ _ _
    exact .of_stopped hok (.inl hd) (by simp [hdst]) (by simp [hdst])
  · obtain ⟨hdepth, -⟩ := hok
    exact .of_escape hd rfl hdepth
  · exact .of_stopped hok (.inl hd) nofun nofun
  · obtain hdst | hdst := State.endOfInput_dst (herr hd)
    all_goals exact .of_stopped hok hd (by simp [hdst]) (by simp [hdst])
  · obtain ⟨hdepth, -⟩ := hok
    exact .of_walk hd (s.readBit_dst.trans hd) (State.availBits_readBit hb) rfl
      (Nat.lt_of_le_of_ne hdepth hm)
  · exact .litBit hok hd hb

/-- Settles O53: each case of DEC's step makes progress, and the count of steps left is bounded in WALK and
LIT, outside which DEC is not enabled. -/
theorem everyDecStepMakesProgress : Obligations.EveryDecStepMakesProgress := by
  intro s t hi hen h
  obtain ⟨hmove, hfall⟩ := decTurn_progresses hi hen h
  refine ⟨hmove, hfall, ?_⟩
  obtain ⟨-, -, -, hok, -⟩ := hi
  have hd : s.dst = .walk ∨ s.dst = .lit := by
    by_contra hno
    obtain ⟨hw, hl⟩ := not_or.1 hno
    simp [State.decEnabled_stopped hw hl] at hen
  obtain ⟨-, hle⟩ := State.decStepsLeft_bounds hok hd
  exact hle

/-! ### Turns of DEC along a path and through a literal -/

theorem decTurns_succ {s t : State} (h : decTurn s = .next t) (n : Nat) :
    decTurns (n + 1) s = decTurns n t := by
  simp [decTurns, h]

theorem decTurns_one {s t : State} (h : decTurn s = .next t) : decTurns 1 s = .next t :=
  decTurns_succ h 0

/-- Turns that follow a completed run of turns. -/
theorem decTurns_add {s t : State} {m : Nat} (h : decTurns m s = .next t) (n : Nat) :
    decTurns (m + n) s = decTurns n t := by
  induction m generalizing s with
  | zero =>
    obtain rfl := Host.Outcome.next.inj h
    rw [Nat.zero_add]
  | succ m ih =>
    obtain ⟨u, hu⟩ := decTurn_completes s
    rw [decTurns_succ hu] at h
    rw [Nat.succ_add, decTurns_succ hu, ih h]

/-- A path goes on from an internal node only, to the child its bit names (43_decoder.md R173). -/
theorem pathClass_cons {m : Memory} {a : Handle} {b : Bool} {p : Bits} {c : NodeClass}
    (h : pathClass m a (b :: p) = some c) :
    ∃ left right, classify (m.read a) = .internal left right ∧
      pathClass m (if b then right else left) p = some c := by
  cases hc : classify (m.read a) with
  | internal left right => exact ⟨left, right, rfl, by simpa [pathClass, hc] using h⟩
  | _ => simp [pathClass, hc] at h

/-- Walking a path of the tree: its bits are consumed one a step, and DEC stands at its end, still in
WALK. -/
theorem decTurns_path {p rest : Bits} {c : NodeClass} {s : State} (hd : s.dst = .walk)
    (hlen : s.depth + p.length ≤ 256) (hpath : pathClass s.tree s.node p = some c)
    (hbits : s.pendingBits = p ++ rest) :
    ∃ t, decTurns p.length s = .next t ∧ t.dst = .walk ∧ classify (t.tree.read t.node) = c ∧
      t.depth = s.depth + p.length ∧ t.cwBits = s.cwBits + p.length ∧ t.lit = s.lit ∧
      t.litCnt = s.litCnt ∧ t.pendingBits = rest ∧ t.err = s.err := by
  induction p generalizing s with
  | nil => exact ⟨s, rfl, hd, Option.some.inj hpath, rfl, rfl, rfl, rfl, hbits, rfl⟩
  | cons b p ih =>
    rw [List.length_cons] at hlen ⊢
    obtain ⟨left, right, hc, hnext⟩ := pathClass_cons hpath
    obtain ⟨hb, rfl, hleft⟩ := State.readBit_of_pendingBits hbits
    have hstep : decTurn s = .next (s.walkBit left right) := by
      rw [decTurn_walk hd rfl, State.walkOn_internal hc (by omega), State.descend_served hb]
    obtain ⟨-, -, -, ⟨hdst, -, -, hcw, -, hlit, hcnt, -⟩, ⟨herr, -⟩⟩ := s.readBit_sameUnits
    have hdepth : (s.walkBit left right).depth = s.depth + 1 := rfl
    have hcw' : (s.walkBit left right).cwBits = s.cwBits + 1 := congrArg (· + 1) hcw
    obtain ⟨t, hturns, htdst, htc, htdepth, htcw, htlit, htcnt, htbits, hterr⟩ :=
      ih (s := s.walkBit left right) (hdst.trans hd) (by omega) (s.readBit_tree ▸ hnext) hleft
    exact ⟨t, (decTurns_succ hstep _).trans hturns, htdst, htc, by omega, by omega,
      htlit.trans hlit, htcnt.trans hcnt, htbits, hterr.trans herr⟩

/-- Reading the rest of a literal: its bits are consumed one a step and shifted in, and the last one
delivers the symbol. -/
theorem decTurns_literal {u rest : Bits} {s : State} (hd : s.dst = .lit) (hne : u ≠ [])
    (hlen : s.litCnt + u.length = 8) (hbits : s.pendingBits = u ++ rest) :
    ∃ t, decTurns u.length s = .next t ∧ t.dst = .wait ∧ t.sym = u.foldl shiftIn s.lit ∧
      t.symNew = true ∧ t.result = ⟨false, u.foldl shiftIn s.lit⟩ ∧
      t.cwBits = s.cwBits + u.length ∧ t.pendingBits = rest ∧ t.err = s.err := by
  induction u generalizing s with
  | nil => exact absurd rfl hne
  | cons b u ih =>
    rw [List.length_cons] at hlen ⊢
    obtain ⟨hb, rfl, hleft⟩ := State.readBit_of_pendingBits hbits
    have hstep := decTurn_lit hd
    rw [State.litStep_served hb] at hstep
    obtain ⟨-, -, -, ⟨hdst, -, -, hcw, -, hlit, hcnt, -⟩, ⟨herr, -⟩⟩ := s.readBit_sameUnits
    cases u with
    | nil =>
      rw [State.litBit_eighth (hcnt.trans (Nat.succ.inj hlen)), hlit] at hstep
      exact ⟨_, decTurns_one hstep, rfl, rfl, rfl, rfl, congrArg (· + 1) hcw, hleft, herr⟩
    | cons b' u =>
      rw [List.length_cons] at hlen
      rw [State.litBit_more (by omega), hlit, hcnt] at hstep
      obtain ⟨t, hturns, htdst, htsym, htnew, htres, htcw, htbits, hterr⟩ :=
        ih (s := { s.readBit.2.countBit s.readBit.1 with
            lit := shiftIn s.lit s.readBit.1, litCnt := s.litCnt + 1 })
          (hdst.trans hd) (List.cons_ne_nil b' u) (by simp only [List.length_cons]; omega) hleft
      rw [State.countBit_cwBits, hcw] at htcw
      exact ⟨t, (decTurns_succ hstep _).trans hturns, htdst, htsym, htnew, htres,
        htcw.trans (by omega), htbits, hterr.trans herr⟩

/-- Settles O54: the walk along the path, and one step at the leaf. -/
theorem knownCodewordDecodesToItsSymbol : Obligations.KnownCodewordDecodesToItsSymbol := by
  intro p rest symbol s hd hlen hpos hpath hbits
  obtain ⟨t, hturns, htdst, htc, htdepth, -, -, -, htbits, hterr⟩ := decTurns_path hd hlen hpath hbits
  have hstep := decTurn_walk htdst rfl
  rw [State.walkOn_symbolLeaf htc (by omega)] at hstep
  exact ⟨_, (decTurns_add hturns 1).trans (decTurns_one hstep), rfl, rfl, rfl, rfl, htdepth, htbits,
    hterr⟩

/-- Settles O55: the walk along the path, one step at the NYT leaf, and the literal's eight bits, which
make the literal. -/
theorem escapedLiteralDecodesToItself : Obligations.EscapedLiteralDecodesToItself := by
  intro p rest v s hd hlen hcnt _ hpath hbits
  rw [List.append_assoc] at hbits
  obtain ⟨t, hturns, htdst, htc, -, htcw, htlit, htcnt, htbits, hterr⟩ :=
    decTurns_path hd hlen hpath hbits
  have hstep := decTurn_walk htdst rfl
  rw [State.walkOn_nytLeaf htc] at hstep
  have hescape := (decTurns_add hturns 1).trans (decTurns_one hstep)
  have hfull : t.litCnt + (byteBits v).length = 8 := by rw [length_byteBits, htcnt, hcnt]
  obtain ⟨u, hliteral, hudst, husym, hunew, hures, hucw, hubits, huerr⟩ :=
    decTurns_literal (u := byteBits v) (s := { t with dst := .lit }) rfl nofun hfull htbits
  have hbyte : (byteBits v).foldl shiftIn t.lit = v :=
    byteBits_injective (byteBits_foldl_shiftIn (length_byteBits v) t.lit)
  exact ⟨u, (decTurns_add hescape 8).trans hliteral, hudst, husym.trans hbyte, hunew,
    hures.trans (congrArg (Result.mk false) hbyte), hucw.trans (congrArg (· + 8) htcw), hubits,
    huerr.trans hterr⟩

end Sys2Proof.Machine
end

section
/-! SUPPORT. The system commands (44_system.md): what CMD does with a word while DEC is not busy, the
interrupt line of a state that runs commands, and the statements about NOP, SRST and SETCTRL. -/

namespace Sys2Proof.Machine

/-! ### The commands NOP and SETCTRL while DEC is not busy -/

/-- While DEC is not busy CMD takes the word of a command that is enabled; ERR decides whether its body
follows (10_state.md R44, 60_exceptions.md R235). -/
theorem exec_of_not_busy {i : Instr} {s : State} (hb : s.busy = false)
    (he : commandEnabled i s = true) (hi : i ≠ .srst) :
    exec i s = .next (if s.err then s.takeWord else commandBody i s.takeWord) := by
  cases herr : s.err with
  | true => rw [exec_eq hi, State.issue_discards hb herr]; rfl
  | false => exact exec_runs ⟨hb, herr⟩ he

/-- NOP takes its word, run or discarded (44_system.md R210). -/
theorem exec_nop {s : State} (hb : s.busy = false) : exec .nop s = .next s.takeWord := by
  rw [exec_of_not_busy (i := .nop) hb rfl nofun]
  exact congrArg Host.Outcome.next (ite_self _)

/-- SETCTRL takes its word, and CTRL is its operand unless it is discarded (44_system.md R212). -/
theorem exec_setctrl {s : State} (hb : s.busy = false) (c : BitVec 3) :
    exec (.setctrl c) s = .next { s.takeWord with ctrl := if s.err then s.ctrl else c } := by
  rw [exec_of_not_busy (i := .setctrl c) hb rfl nofun]
  cases s.err <;> rfl

/-- CMD taking a word, and a write of CTRL, leave every unit, RESULT, the tree and the order. -/
theorem takeWord_setCtrl_frame {s t : State} {c : BitVec 3} (h : t = { s.takeWord with ctrl := c }) :
    SameSeqs s t ∧ SamePacker s t ∧ SameOut s t ∧ SameReader s t ∧ SameDecoder s t ∧ SameErrors s t ∧
      t.result = s.result ∧ TookWord s t ∧ SameTree s t ∧ SameOrder s t := by
  subst h
  and_intros
  all_goals intros; rfl

/-- A SETCTRL word holds its operand (30_encoding.md R83). -/
theorem setctrl_word (c : BitVec 3) :
    EncodedAs (.setctrl c) 0xFFF8 0x1000 ∧ ctrl3Of (encode (.setctrl c)) = c := by
  revert c
  decide

/-! ### The interrupt line -/

/-- Where CMD runs commands there is no error and no symbol waits, so IRQ is the end of the stream
(60_exceptions.md R238). -/
theorem State.Runs.irq_eq {s : State} (hr : s.Runs) : s.irq = (s.ieEos && decide (s.dst = .done)) := by
  obtain ⟨hbusy, herr⟩ := hr
  have hwait : s.dst ≠ .wait := fun h => by
    rw [s.busy_iff.2 (.inr (.inr h))] at hbusy
    cases hbusy
  simp [State.irq, herr, hwait]

/-! ### The obligations -/

/-- Settles O18: NOP's step is taking the word. -/
theorem nopOnlyTakesItsWord : Obligations.NopOnlyTakesItsWord := by
  intro s hb
  obtain ⟨hseqs, hpack, hout, hread, hdec, herr, hres, hport, htree, horder⟩ :=
    takeWord_setCtrl_frame (s := s) (t := s.takeWord) (c := s.ctrl) rfl
  exact ⟨rfl, _, exec_nop hb, hseqs, hpack, hout, hread, hdec, herr, hres, hport, htree, horder, rfl⟩

/-- Settles O19: SRST takes its word and resets, in every state, and power-on reset is the same reset with
the port's and OUT's fields started anew. -/
theorem srstResetsEveryHbsaField : Obligations.SrstResetsEveryHbsaField := by
  intro s
  obtain ⟨hport, htree, horder, -⟩ := commandBody_frame .srst s.takeWord
  refine ⟨rfl, _, exec_srst s, ?_, rfl, htree, horder, hport, rfl⟩
  and_intros
  all_goals rfl

/-- Settles O20: ERR decides what SETCTRL leaves in CTRL, and the state after a write still runs
commands. -/
theorem setctrlWritesCtrl : Obligations.SetctrlWritesCtrl := by
  intro c s hb
  obtain ⟨hword, hctrl⟩ := setctrl_word c
  refine ⟨hword, hctrl, _, exec_setctrl hb c, fun hok => ?_, fun hbad => if_pos hbad,
    takeWord_setCtrl_frame rfl⟩
  rw [hok]
  exact ⟨rfl, State.Runs.irq_eq (s := { s.takeWord with ctrl := c }) ⟨hb, hok⟩⟩

end Sys2Proof.Machine
end

section
/-! SUPPORT. Errors and the interrupt line (60_exceptions.md): what CMD's turn does to a word while ERR = 1,
which steps keep ERR, and when IRQ is 1. -/

namespace Sys2Proof.Machine

/-! ### Words while ERR = 1 (60_exceptions.md R235) -/

/-- Every word but SRST, legal or illegal, is CMD's common step with some enabling and some body. -/
theorem cmdTurn_eq_issue {s : State} {w : Word} {ws : List Word} (h : s.cmdq = w :: ws)
    (hw : w ≠ 0x0800#16) : ∃ en f, cmdTurn s = .next (s.issue en f) := by
  cases hd : decode w with
  | error e => exact ⟨_, _, cmdTurn_illegal h hd⟩
  | ok i =>
    have hi : i ≠ .srst := fun hi => hw ((decode_eq_srst_iff w).1 (hi ▸ hd))
    exact ⟨_, _, (cmdTurn_ok h hd).trans (exec_eq hi s)⟩

/-- With ERR = 1 a word other than SRST is taken and discarded. -/
theorem cmdTurn_discards {s : State} {w : Word} {ws : List Word} (h : s.cmdq = w :: ws)
    (hw : w ≠ 0x0800#16) (hb : s.busy = false) (he : s.err = true) :
    cmdTurn s = .next s.takeWord := by
  obtain ⟨en, f, hcmd⟩ := cmdTurn_eq_issue h hw
  rw [hcmd, State.issue_discards hb he]

/-! ### What keeps ERR = 1 (60_exceptions.md R240) -/

/-- CMD's step runs no body while ERR = 1, so ERR stays. -/
theorem State.issue_keeps_err {s : State} (he : s.err = true) (en : Bool) (f : State → State) :
    (s.issue en f).err = true := by
  obtain h | ⟨-, -, h⟩ | ⟨hr, -, -⟩ := s.issue_cases en f
  · rw [h, he]
  · rw [h, s.takeWord_err, he]
  · exact absurd he (Bool.eq_false_iff.1 hr.2)

/-- CMD's turn clears ERR only with SRST at the head of the port. -/
theorem cmdTurn_clears_err {s t : State} (h : cmdTurn s = .next t) (he : s.err = true)
    (ht : t.err = false) : ∃ ws, s.cmdq = 0x0800#16 :: ws := by
  cases hq : s.cmdq with
  | nil =>
    obtain rfl := Host.Outcome.next.inj ((cmdTurn_nil hq).symm.trans h)
    simp [he] at ht
  | cons w ws =>
    by_contra hno
    obtain ⟨en, f, hcmd⟩ := cmdTurn_eq_issue hq fun hw => hno ⟨ws, by rw [hw]⟩
    obtain rfl := Host.Outcome.next.inj (hcmd.symm.trans h)
    simp [s.issue_keeps_err he] at ht

@[simp] theorem State.readBit_err (s : State) : s.readBit.2.err = s.err := by
  obtain ⟨v, c, q, n, h⟩ := s.readBit_frame
  rw [h]

theorem State.endOfInput_keeps_err {s : State} (he : s.err = true) : s.endOfInput.err = true := by
  obtain h | h := s.endOfInput_cases
  · rw [h, he]
  · rw [h, State.raise_err]

@[simp] theorem State.litBit_err (s : State) (b : Bool) : (s.litBit b).err = s.err := by
  obtain ⟨-, h⟩ | ⟨-, h⟩ := s.litBit_cases b
  all_goals rw [h]; rfl

/-- A step of DEC can set ERR and never clears it. -/
theorem decTurn_keeps_err {s t : State} (h : decTurn s = .next t) (he : s.err = true) :
    t.err = true := by
  obtain ⟨-, rfl⟩ | ⟨-, rfl⟩ | ⟨-, rfl⟩ | ⟨-, v, rfl⟩ | ⟨-, -, -, rfl⟩ | ⟨-, -, -, n, rfl⟩ |
    ⟨-, -, rfl⟩ := decTurn_cases h
  · exact he
  · exact s.raise_err _ _ _
  · exact he
  · exact he
  · exact State.endOfInput_keeps_err he
  · exact s.readBit_err.trans he
  · simp [he]

@[simp] theorem State.hostMove_err (s : State) (m : HostMove) : (s.hostMove m).err = s.err := by
  obtain ⟨q, e, o, c, h⟩ := s.hostMove_frame m
  rw [h]

/-- A move of INS can set ERR and never clears it. -/
theorem State.insMove_keeps_err {s : State} (he : s.err = true) (m : InsMove) :
    (s.insMove m).err = true := by
  obtain h | ⟨a, w, h⟩ | ⟨a, h⟩ | ⟨-, h⟩ | h := s.insMove_cases m <;> simp [h, he]

/-! ### The interrupt line -/

/-- IRQ is 1 iff one of its enabled sources is (60_exceptions.md R238). -/
theorem State.irq_iff (s : State) :
    s.irq = true ↔ (s.ctrl.getLsbD 0 = true ∧ s.err = true) ∨
      (s.ctrl.getLsbD 1 = true ∧ s.dst = .wait) ∨ (s.ctrl.getLsbD 2 = true ∧ s.dst = .done) := by
  simp only [State.irq, State.ieErr, State.ieSym, State.ieEos, Bool.or_eq_true, Bool.and_eq_true,
    decide_eq_true_iff, or_assoc]

/-- With every enable 0 no source reaches IRQ (60_exceptions.md R238). -/
theorem State.irq_masked {s : State} (h : s.ctrl = 0) : s.irq = false := by
  simp [State.irq, State.ieErr, State.ieSym, State.ieEos, h]

/-! ### The obligations -/

/-- Settles O12: a word other than SRST is discarded, SRST resets, and DST = ERR stops DEC and INS. -/
theorem errorDiscardsEveryWordButSrst : Obligations.ErrorDiscardsEveryWordButSrst := by
  intro s w ws hq he hd
  have hbusy : s.busy = false := by simp [State.busy, hd]
  have hdec : s.decEnabled = false := State.decEnabled_stopped (by simp [hd]) (by simp [hd])
  refine ⟨fun hw => ?_, fun hw => ?_, hdec, decTurn_of_not_decEnabled hdec, ?_,
    fun v hin => State.hostMove_push hin v⟩
  · rw [cmdTurn_discards hq hw hbusy he, State.takeWord, hq, List.tail_cons]
  · subst hw
    exact ⟨_, cmdTurn_srst hq, rfl, rfl⟩
  · rw [State.insDone_elsewhere (by simp [hd]), State.raise_of_err he]

/-- Settles O13: of all the turns, power-on reset and CMD's with SRST at the head alone can clear ERR. -/
theorem onlyResetLeavesTheErrorState : Obligations.OnlyResetLeavesTheErrorState := by
  intro s t he h ht
  have hkept (hk : t.err = true) : False := Bool.eq_false_iff.1 ht hk
  obtain ⟨hs, n, h⟩ | ⟨-, n, h⟩ | ⟨m, ts, hs, h⟩ := step_cases h
  · exact .inr ⟨.inl hs, cmdTurn_clears_err (s := { s with freeUsed := n }) h he ht⟩
  · exact (hkept (decTurn_keeps_err h he)).elim
  · cases m with
    | cmd => exact .inr ⟨.inr ⟨ts, hs⟩, cmdTurn_clears_err (s := { s with sched := ts }) h he ht⟩
    | dec => exact (hkept (decTurn_keeps_err h he)).elim
    | host m =>
      obtain rfl := Host.Outcome.next.inj h
      exact (hkept ((State.hostMove_err _ m).trans he)).elim
    | ins m =>
      obtain rfl := Host.Outcome.next.inj h
      exact (hkept (State.insMove_keeps_err (s := { s with sched := ts }) he m)).elim
    | powerOn => exact .inl ⟨ts, hs⟩

/-- Settles O11: the first error is kept, and recording one writes the record and DST only. -/
theorem raiseKeepsTheFirstError : Obligations.RaiseKeepsTheFirstError :=
  fun _ code src info =>
    ⟨fun h => State.raise_of_err h code src info, fun h => State.raise_recorded h code src info⟩

/-- Settles O60: a raise sets the error source, and after an acknowledgement DST is IDLE with ERR = 0,
where no source is left. -/
theorem irqFollowsItsSources : Obligations.IrqFollowsItsSources := by
  intro s
  obtain ⟨-, -, -, -, -, -, hirq⟩ := s.statusWord_flags
  refine ⟨s.irq_iff, hirq, State.irq_masked, fun code src info hie => ?_, fun hd he => ?_⟩
  · refine (State.irq_iff _).2 (.inl ⟨?_, s.raise_err code src info⟩)
    rwa [s.raise_ctrl]
  · have hruns : s.insDone.Runs := by
      rw [State.insDone_wait hd]
      exact ⟨rfl, he⟩
    rw [hruns.irq_eq, State.insDone_wait hd]
    exact Bool.and_false _

end Sys2Proof.Machine
end

section
/-! SUPPORT. The state after reset (70_reset_and_hazards.md R260, R261): what its registers read, and
that the invariant starts there. -/

namespace Sys2Proof.Machine

/-- `Reset()` changes nothing in the state after reset (70_reset_and_hazards.md R260, R261). -/
@[simp] theorem State.hbsaReset_reset : State.reset.hbsaReset = State.reset := rfl

/-! ### The obligations -/

/-- Settles O7: DEC_STATE reads CW_ZERO, RD_STATE the empty INQ and ID its constant; each of the other
thirteen addresses reads fields whose reset value and number are 0. -/
theorem resetRegistersRead : Obligations.ResetRegistersRead := by
  refine ⟨?status, ?decState, ?rdState, ?id, ?others⟩
  case id => rfl
  all_goals decide

/-- Settles O8: the state after reset is what `Reset()` makes of it, and `Reset()` gives a state of the
invariant where the tree memory is canonical. -/
theorem invariantHoldsAtReset : Obligations.InvariantHoldsAtReset := by
  have hinv : State.reset.hbsaReset.Inv := State.hbsaReset_inv Memory.wf_reset
  rwa [State.hbsaReset_reset] at hinv

end Sys2Proof.Machine
end
